-- ==== Sys2Proof/Word.lean ====
section
/-! DEFINITION. The words of the block and its three signal levels (spec 20_memory.md R45, 30_encoding.md R60 and R70). -/

namespace Sys2Proof

/-- One symbol byte (R45: 8 bits). -/
abbrev Byte := BitVec 8

/-- One command word `CW[15:0]` (R61: 16 bits). -/
abbrev CommandWord := BitVec 16

/-- One scheme code (R45: 3 bits). -/
abbrev SelCode := BitVec 3

/-- A 1-bit value: `true` is 1 and `false` is 0 (R8, R10). -/
abbrev Bit := Bool

/-- The closed level set of R10 and R70: exactly three values, so that level code 3 cannot arise (R71). -/
inductive Level where
  | low
  | mid
  | high
  deriving DecidableEq, Repr

end Sys2Proof
end

