-- ==== Sys2Proof/Config.lean ====
section
/-! DEFINITION. The implementation parameters of 00_scope.md R6 and the free values of the model. -/

namespace Sys2Proof

/-- The parameters of R6. `maxBits = none` is `MAX_BITS = ∞`. The axis numbers are exact (R8); the spec gives
them no number type, so they are rationals here (DESIGN CHOICE, log 5). -/
structure Params where
  maxBits : Option Nat
  yMin : Rat
  yMax : Rat
  labelY0 : Rat
  labelH : Rat
  deriving DecidableEq, Repr

namespace Config

/-! The four axis numbers are OPEN (R6, D9): constants without a body. -/

opaque rawYMin : Rat
opaque rawYMax : Rat
opaque rawLabelY0 : Rat
opaque rawLabelH : Rat

/-- `Y_MIN`: any number that R6 allows (`Y_MIN ≤ 0`). -/
def yMin : Rat := if rawYMin ≤ 0 then rawYMin else 0

/-- `LABEL_Y0`: any number that R6 allows (`LABEL_Y0 ≥ 1`). -/
def labelY0 : Rat := if 1 ≤ rawLabelY0 then rawLabelY0 else 1

/-- `LABEL_H`: any number that R6 allows (`LABEL_H > 0`). -/
def labelH : Rat := if 0 < rawLabelH then rawLabelH else 1

/-- `Y_MAX`: any number that R6 allows (`Y_MAX ≥ LABEL_Y0 + LABEL_H`). -/
def yMax : Rat := if labelY0 + labelH ≤ rawYMax then rawYMax else labelY0 + labelH

/-- The parameters of the machine that `State.reset` powers on: `MAX_BITS = ∞`, which R6 says the reference model
takes, and free axis numbers (log 5). -/
def params : Params :=
  { maxBits := none, yMin := yMin, yMax := yMax, labelY0 := labelY0, labelH := labelH }

/-! What a RESET event leaves in SEL and in the encoder registers is unspecified (R142, R200): a fresh free value
for each RESET event, told apart by the counter `fresh` of State (log 8). Every instance reads the same constants: a DESIGN CHOICE
(log 8, log 17). -/

opaque freeSel : Nat → SelCode
opaque freeNrziLevel : Nat → Bit
opaque freeAmiPol : Nat → Bit
opaque freePtPol : Nat → Bit
opaque freeDmPrev : Nat → Bit

end Config
end Sys2Proof
end

