-- ==== Sys2Proof/Syntax.lean ====
section
/-! DEFINITION. Abstract syntax: the schemes (10_state.md R21), the instructions (one constructor per row of
spec/opcode_table.json), the encoded formats that carry them (30_encoding.md R60) and the assembler lines (R75, R76). -/

namespace Sys2Proof

/-- R21: the closed enumeration of the six line codes, in the source's order. -/
inductive Scheme where
  | nrzL
  | nrzI
  | bipolarAmi
  | pseudoternary
  | manchester
  | diffManchester
  deriving DecidableEq, Repr

/-- The instructions. `start`, `sym` and `endPass` are the commands a host issues (R139 to R141). The other eight rows
are the operations END performs inside itself: one symbol read (R130) or one transition of the selected encoder
(R100 to R122), whose operand is the bit `b` (log 1). -/
inductive Instr where
  /-- START, `01 000 sss 00000000` (R63, R139). -/
  | start (sss : SelCode)
  /-- SYM, `10 000 000 dddddddd` (R64, R140). -/
  | sym (d : Byte)
  /-- END, `11 000 000 00000000` (R65, R141). -/
  | endPass
  /-- NRZ-L, SEL 000: `T_NRZL(b)` (R100). -/
  | nrzL (b : Bit)
  /-- NRZ-I, SEL 001: `T_NRZI(b)` (R102). -/
  | nrzI (b : Bit)
  /-- AMI, SEL 010: `T_AMI(b)` (R110). -/
  | ami (b : Bit)
  /-- PSEUDOTERNARY, SEL 011: `T_PT(b)` (R112). -/
  | pseudoternary (b : Bit)
  /-- MANCHESTER, SEL 100: `T_MAN(b)` (R120). -/
  | manchester (b : Bit)
  /-- DIFF-MANCHESTER, SEL 101: `T_DM(b)` (R122). -/
  | diffManchester (b : Bit)
  /-- SYMBOL '0', byte 0x30 (R69, R130). -/
  | symbol0
  /-- SYMBOL '1', byte 0x31 (R69, R130). -/
  | symbol1
  deriving DecidableEq, Repr

/-- The five encoded formats of R60. -/
inductive Format where
  | cmd
  | sel
  | symbol
  | level
  | resp
  deriving DecidableEq, Repr

/-- An encoded instruction, in the format its row of the table has. The operand bit of a transition has no place in
the 3-bit SEL format: it stands beside the code (log 10). -/
inductive Encoded where
  | cmd (w : CommandWord)
  | sel (code : SelCode) (b : Bit)
  | symbol (c : Byte)
  deriving DecidableEq, Repr

/-- One line of the text syntax of R75 and the pseudo-instruction of R76. Numbers are as written; `AsmLine.wf`
bounds them. -/
inductive AsmLine where
  | startScheme (s : Scheme)
  | startCode (n : Nat)
  | symBit (b : Bit)
  | symByte (n : Nat)
  | endPass
  | word (n : Nat)
  | pass (s : Scheme) (bits : List Bit)
  deriving DecidableEq, Repr

end Sys2Proof
end

