-- ==== Sys2Proof/Machine/State.lean ====
section
/-! DEFINITION. What the block returns (30_encoding.md R72, R73), its whole state (10_state.md R33, 20_memory.md R41 and
R42), and the state after power-on (70_reset_and_hazards.md R200). -/

namespace Sys2Proof.Machine

/-- One point of the step path (R73, R162). -/
structure PathPoint where
  t : Nat
  h : Level
  deriving DecidableEq, Repr

/-- One label box (R73, R166 to R168); `centre2` is twice the label centre. -/
structure LabelBox where
  start : Nat
  width : Nat
  centre2 : Nat
  text : Byte
  deriving DecidableEq, Repr

/-- The PLOT record (R73). -/
structure Plot where
  path : List PathPoint
  boxes : List LabelBox
  xMin : Nat
  xMax : Nat
  yMin : Rat
  yMax : Rat
  labelY0 : Rat
  labelH : Rat
  deriving DecidableEq, Repr

/-- The RESULT record of an OK response (R73), an abstract value (log 11). -/
structure Result where
  scheme : Scheme
  levels : List Level
  plot : Plot
  deriving DecidableEq, Repr

/-- R180: exactly five error responses. -/
inductive ErrorCode where
  | invalidSymbol
  | reservedScheme
  | capacity
  | sequence
  | reservedCommand
  deriving DecidableEq, Repr

/-- R72: the response to a command. An error carries no payload. -/
inductive Response where
  | ack
  | ok (r : Result)
  | err (e : ErrorCode)
  deriving DecidableEq, Repr

/-- What the host can issue (R142, R151): a command word or a RESET event. -/
inductive PortEvent where
  | command (w : CommandWord)
  | reset
  deriving DecidableEq, Repr

/-- The encoder unit: the four encoder state registers (R27 to R30), the bit string B of a running END (R137) and the level
buffer LV (R42). `bits` and `lv` are empty outside END (log 9). -/
structure Encoder where
  nrziLevel : Bit
  amiPol : Bit
  ptPol : Bit
  dmPrev : Bit
  bits : List Bit
  lv : List Level
  deriving DecidableEq, Repr

/-- The state. `params` are the parameters of R6, which no step writes (log 4). `port` holds what the host has issued and
the block has not taken yet (log 2), `responses` what the block has returned (log 3), both oldest first. `fresh` counts the
free values used (log 8). -/
structure State where
  params : Params
  passOpen : Bit
  sel : SelCode
  ovf : Bit
  inBuf : List Byte
  enc : Encoder
  port : List PortEvent
  responses : List Response
  fresh : Nat
  deriving DecidableEq, Repr

/-- The faults that stop the machine: none. R180 to R190: every error is a response after which the block goes on (log 14). -/
inductive Fault where
  deriving DecidableEq, Repr

/-- The refusals of the model. -/
inductive Refusal where
  /-- Raised by an arm of `exec` whose instruction has no meaning yet; safe. No arm of this model raises it. -/
  | notModelled (mnemonic : String)
  deriving DecidableEq, Repr

/-- The encoder unit at power-on. R200 leaves the registers unspecified: all 0 is a DESIGN CHOICE, unsafe (log 7). -/
def Encoder.powerOn : Encoder :=
  { nrziLevel := false, amiPol := false, ptPol := false, dmPrev := false, bits := [], lv := [] }

/-- R200: power-on of a block with parameters `p`. SEL is unspecified there: 0 is a DESIGN CHOICE, unsafe (log 6). -/
def State.powerOn (p : Params) : State :=
  { params := p, passOpen := false, sel := 0#3, ovf := false, inBuf := [], enc := Encoder.powerOn,
    port := [], responses := [], fresh := 0 }

/-- The machine right after reset: power-on with `MAX_BITS = ∞` and free axis numbers (log 5). -/
def State.reset : State := State.powerOn Config.params

end Sys2Proof.Machine
end

