-- ==== Sys2Proof/Machine/Flags.lean ====
section
/-! DEFINITION. The block's two flags, PASS_OPEN (10_state.md R23) and OVF (R26), and the capacity test that sets OVF. The
block has no condition codes (R20). -/

namespace Sys2Proof.Machine

/-- Write PASS_OPEN (R23). -/
def State.setPassOpen (s : State) (v : Bit) : State := { s with passOpen := v }

/-- Write OVF (R26). -/
def State.setOvf (s : State) (v : Bit) : State := { s with ovf := v }

end Sys2Proof.Machine

namespace Sys2Proof

/-- R140: `len(IN) == MAX_BITS`, for a buffer of `n` symbols. With `MAX_BITS = ∞` it never holds (R26). -/
def Params.atCapacity (p : Params) (n : Nat) : Bool :=
  match p.maxBits with
  | none => false
  | some m => n == m

/-- R138: `len(C) > MAX_BITS`, for a sequence of `n` bytes. -/
def Params.exceeds (p : Params) (n : Nat) : Bool :=
  match p.maxBits with
  | none => false
  | some m => decide (m < n)

end Sys2Proof
end

