-- ==== Sys2Proof/Decode.lean ====
section
/-! DEFINITION. Decoding, total and rejecting by name, the encoder beside it, and the code tables of 30_encoding.md. -/

namespace Sys2Proof

/-- Why an encoded word is no instruction. -/
inductive Reject where
  /-- `OP = 00` (R66, R62). -/
  | reservedOp
  /-- `OP = 01` with `CW[13:11] ≠ 000` or `CW[7:0] ≠ 0x00` (R66). -/
  | startFields
  /-- `OP = 10` with `CW[13:8] ≠ 000000` (R66). -/
  | symFields
  /-- `OP = 11` with `CW[13:0] ≠ 0` (R66). -/
  | endFields
  /-- scheme code 110 or 111 (R68). -/
  | reservedScheme
  /-- a byte other than 0x30 and 0x31 (R69). -/
  | invalidSymbol
  deriving DecidableEq, Repr

/-- What a decoder answers. -/
inductive Decoded where
  | instr (i : Instr)
  | reserved (why : Reject)
  deriving DecidableEq, Repr

/-! The fields of a command word (R61). -/

/-- `CW[15:14]`. -/
def cwOp (w : CommandWord) : BitVec 2 := w.extractLsb' 14 2
/-- `CW[13:11]`. -/
def cwRsv (w : CommandWord) : BitVec 3 := w.extractLsb' 11 3
/-- `CW[10:8]`. -/
def cwSel (w : CommandWord) : SelCode := w.extractLsb' 8 3
/-- `CW[7:0]`. -/
def cwData (w : CommandWord) : Byte := w.extractLsb' 0 8

/-- R74: the four-way test on a command word. -/
def decodeCommand (w : CommandWord) : Decoded :=
  if cwOp w = 0b01#2 then
    if cwRsv w = 0#3 ∧ cwData w = 0#8 then .instr (.start (cwSel w)) else .reserved .startFields
  else if cwOp w = 0b10#2 then
    if cwRsv w = 0#3 ∧ cwSel w = 0#3 then .instr (.sym (cwData w)) else .reserved .symFields
  else if cwOp w = 0b11#2 then
    if cwRsv w = 0#3 ∧ cwSel w = 0#3 ∧ cwData w = 0#8 then .instr .endPass else .reserved .endFields
  else .reserved .reservedOp

/-- R67, R68 and R131: `decode_scheme`. `none` is `NONE`. -/
def decodeScheme (c : SelCode) : Option Scheme :=
  if c = 0b000#3 then some .nrzL
  else if c = 0b001#3 then some .nrzI
  else if c = 0b010#3 then some .bipolarAmi
  else if c = 0b011#3 then some .pseudoternary
  else if c = 0b100#3 then some .manchester
  else if c = 0b101#3 then some .diffManchester
  else none

/-- R67: the code of a scheme. -/
def schemeCode : Scheme → SelCode
  | .nrzL => 0b000#3
  | .nrzI => 0b001#3
  | .bipolarAmi => 0b010#3
  | .pseudoternary => 0b011#3
  | .manchester => 0b100#3
  | .diffManchester => 0b101#3

/-- R69 and R11: `bitval`, defined for the two valid symbols only. -/
def bitval (c : Byte) : Option Bit :=
  if c = 0x30#8 then some false
  else if c = 0x31#8 then some true
  else none

/-- R171: `symbol(0) = 0x30` and `symbol(1) = 0x31`. -/
def symbolOf : Bit → Byte
  | false => 0x30#8
  | true => 0x31#8

/-- R132: the transition the multiplexer routes for a scheme, on the bit `b`. -/
def transitionInstr : Scheme → Bit → Instr
  | .nrzL, b => .nrzL b
  | .nrzI, b => .nrzI b
  | .bipolarAmi, b => .ami b
  | .pseudoternary, b => .pseudoternary b
  | .manchester, b => .manchester b
  | .diffManchester, b => .diffManchester b

/-- R130: the symbol read that yields the bit `b`. -/
def symbolInstr : Bit → Instr
  | false => .symbol0
  | true => .symbol1

/-- The decoder, on every format an instruction is carried in. -/
def decode : Encoded → Decoded
  | .cmd w => decodeCommand w
  | .sel c b =>
    match decodeScheme c with
    | some s => .instr (transitionInstr s b)
    | none => .reserved .reservedScheme
  | .symbol c =>
    match bitval c with
    | some b => .instr (symbolInstr b)
    | none => .reserved .invalidSymbol

/-- A command word from its four fields (R61). -/
def commandWord (op : BitVec 2) (rsv sel : BitVec 3) (data : Byte) : CommandWord :=
  op ++ (rsv ++ (sel ++ data) : BitVec 14)

/-- The encoder: the word of every instruction, from R63, R64, R65, R67 and R69. -/
def encode : Instr → Encoded
  | .start sss => .cmd (commandWord 0b01#2 0#3 sss 0#8)
  | .sym d => .cmd (commandWord 0b10#2 0#3 0#3 d)
  | .endPass => .cmd (commandWord 0b11#2 0#3 0#3 0#8)
  | .nrzL b => .sel 0b000#3 b
  | .nrzI b => .sel 0b001#3 b
  | .ami b => .sel 0b010#3 b
  | .pseudoternary b => .sel 0b011#3 b
  | .manchester b => .sel 0b100#3 b
  | .diffManchester b => .sel 0b101#3 b
  | .symbol0 => .symbol 0x30#8
  | .symbol1 => .symbol 0x31#8

/-- The instruction of an answer, if there is one. -/
def Decoded.instr? : Decoded → Option Instr
  | .instr i => some i
  | .reserved _ => none

/-- The encoded word a row of the table names by its bits. Rows of 16 bits are command words. Rows of at most 8 bits are
a SEL code (a number below 8, the transition's operand bit 0, since no table bit gives it) or a SYMBOL byte; the two ranges
of codes are disjoint (log 10). -/
def tableWord (nbits w : Nat) : Encoded :=
  if 8 < nbits then .cmd (BitVec.ofNat 16 w)
  else if w < 8 then .sel (BitVec.ofNat 3 w) false
  else .symbol (BitVec.ofNat 8 w)

/-- The decoder on the bits of a table row. -/
def decodeTableWord (nbits w : Nat) : Option Instr := (decode (tableWord nbits w)).instr?

/-! The opcode table as the spec prints it (spec/opcode_table.json). -/

/-- R60: the width of a format, in bits. -/
def Format.width : Format → Nat
  | .cmd => 16
  | .sel => 3
  | .symbol => 8
  | .level => 2
  | .resp => 4

/-- One row: match and mask over the row's format. -/
structure Row where
  mnemonic : String
  format : Format
  pattern : Nat
  mask : Nat
  deriving DecidableEq, Repr

/-- The eleven rows. -/
def opcodeTable : List Row :=
  [⟨"START", .cmd, 0x4000, 0xF8FF⟩, ⟨"SYM", .cmd, 0x8000, 0xFF00⟩, ⟨"END", .cmd, 0xC000, 0xFFFF⟩,
   ⟨"NRZ-L", .sel, 0, 7⟩, ⟨"NRZ-I", .sel, 1, 7⟩, ⟨"AMI", .sel, 2, 7⟩] ++
  [⟨"PSEUDOTERNARY", .sel, 3, 7⟩, ⟨"MANCHESTER", .sel, 4, 7⟩, ⟨"DIFF-MANCHESTER", .sel, 5, 7⟩,
   ⟨"SYMBOL__0", .symbol, 0x30, 0xFF⟩, ⟨"SYMBOL__1", .symbol, 0x31, 0xFF⟩]

/-- The index of an instruction's row in the table. -/
def rowIndex : Instr → Nat
  | .start _ => 0
  | .sym _ => 1
  | .endPass => 2
  | .nrzL _ => 3
  | .nrzI _ => 4
  | .ami _ => 5
  | .pseudoternary _ => 6
  | .manchester _ => 7
  | .diffManchester _ => 8
  | .symbol0 => 9
  | .symbol1 => 10

/-- The format of an encoded word. -/
def Encoded.format : Encoded → Format
  | .cmd _ => .cmd
  | .sel _ _ => .sel
  | .symbol _ => .symbol

/-- The bits of an encoded word, as one number. -/
def Encoded.bits : Encoded → Nat
  | .cmd w => w.toNat
  | .sel c _ => c.toNat
  | .symbol c => c.toNat

/-- Whether an encoded word has the fixed bits of a row. -/
def Row.covers (r : Row) (e : Encoded) : Bool :=
  decide (r.format = e.format) && (e.bits &&& r.mask == r.pattern)

end Sys2Proof
end

