-- ==== Sys2Proof/Machine/Operands.lean ====
section
/-! DEFINITION. The operand values: levels and their codes (30_encoding.md R70), response codes (R72), samples per bit
(10_state.md R22), symbols and bit strings (43_mux_and_commands.md R130), the input position (R24). -/

namespace Sys2Proof

/-- R10: a 1-bit value emitted as a level, half-unit code `2x`. -/
def Level.ofBit : Bit → Level
  | false => .low
  | true => .high

/-- R70: the half-unit code `h` of a level. -/
def Level.code : Level → BitVec 2
  | .low => 0#2
  | .mid => 1#2
  | .high => 2#2

/-- R70, R71: the level of a code; code 3 is none. -/
def Level.ofCode (h : BitVec 2) : Option Level :=
  if h = 0#2 then some .low
  else if h = 1#2 then some .mid
  else if h = 2#2 then some .high
  else none

/-- R10: the level as the number the source uses, 0, 0.5 or 1. -/
def Level.value : Level → Rat
  | .low => 0
  | .mid => 1 / 2
  | .high => 1

/-- R22, R160: samples per bit. -/
def spb : Scheme → Nat
  | .nrzL => 1
  | .nrzI => 1
  | .bipolarAmi => 1
  | .pseudoternary => 1
  | .manchester => 2
  | .diffManchester => 2

/-- R69: whether a byte is a valid symbol. -/
def isSymbol (c : Byte) : Bool := (bitval c).isSome

/-- R130: `valid(IN)`. -/
def valid (c : List Byte) : Bool := c.all isSymbol

/-- R130: `bits(IN)`. -/
def bitsOf (c : List Byte) : List Bit := c.filterMap bitval

namespace Machine

/-- R180: the code of an error. -/
def ErrorCode.code : ErrorCode → BitVec 4
  | .invalidSymbol => 0x8#4
  | .reservedScheme => 0x9#4
  | .capacity => 0xA#4
  | .sequence => 0xB#4
  | .reservedCommand => 0xC#4

/-- R72: the 4-bit code of a response. -/
def Response.code : Response → BitVec 4
  | .ack => 0x0#4
  | .ok _ => 0x1#4
  | .err e => e.code

/-- R24: the input position `K = len(IN)`. -/
def State.inputPos (s : State) : Nat := s.inBuf.length

end Machine
end Sys2Proof
end

