-- ==== Sys2Proof/Machine/Ops.lean ====
section
/-! DEFINITION. The primitives of the pseudocode (00_scope.md R9): MemRead, MemWrite, Emit, register writes, respond and
raise, and how the block takes an error (60_exceptions.md R188). -/

namespace Sys2Proof.Machine

/-- What a command of the block answers. -/
abbrev Outcome := Host.Outcome State Fault Refusal

/-! The input buffer IN (R41). -/

/-- R41: `MemRead(IN, k, 1)`. -/
def State.memRead (s : State) (k : Nat) : Option Byte := s.inBuf[k]?

/-- R41: `MemWrite(IN, k, 1, c)`. At `k = len(IN)`, the only place it is performed, it appends. -/
def State.memWrite (s : State) (k : Nat) (c : Byte) : State :=
  { s with inBuf := s.inBuf.take k ++ c :: s.inBuf.drop (k + 1) }

/-- R41: `IN <- []`. -/
def State.clearIn (s : State) : State := { s with inBuf := [] }

/-! Registers. -/

/-- R25: write SEL. -/
def State.setSel (s : State) (v : SelCode) : State := { s with sel := v }

/-- Write the encoder unit. -/
def State.setEnc (s : State) (e : Encoder) : State := { s with enc := e }

/-- The state with one more free value used (log 8). -/
def State.nextFresh (s : State) : State := { s with fresh := s.fresh + 1 }

/-! The level buffer LV (R42) and the bit string B (R137). -/

/-- R42: `Emit(h)`. -/
def Encoder.emit (e : Encoder) (h : Level) : Encoder := { e with lv := e.lv ++ [h] }

/-- R130: the next bit of `bits(IN)` joins B. -/
def Encoder.loadBit (e : Encoder) (b : Bit) : Encoder := { e with bits := e.bits ++ [b] }

/-- R42: LV is discarded, and with it the bit string of the pass. -/
def Encoder.discard (e : Encoder) : Encoder := { e with bits := [], lv := [] }

/-! Responses (R9, R72). -/

/-- `respond R`: the response joins the observation. -/
def State.respond (s : State) (r : Response) : State := { s with responses := s.responses ++ [r] }

/-- `raise E`, the one way the block takes an error (R188): the response is the whole report; no cause, position, mode
or vector exists. There is no return from it (R190): the block is ready for the next command. -/
def State.raise (s : State) (e : ErrorCode) : State := s.respond (.err e)

/-! The command port (R5, R48). -/

/-- The host issues events; the block takes them in this order (R48). -/
def State.issue (s : State) (es : List PortEvent) : State := { s with port := s.port ++ es }

/-- The block has taken the oldest event; `rest` are the others. -/
def State.setPort (s : State) (rest : List PortEvent) : State := { s with port := rest }

/-! The encoder registers under their names (R27 to R30, R132). -/

/-- The name of an encoder register. -/
inductive EncReg where
  | nrziLevel
  | amiPol
  | ptPol
  | dmPrev
  deriving DecidableEq, Repr

/-- The value of an encoder register. -/
def Encoder.reg (e : Encoder) : EncReg → Bit
  | .nrziLevel => e.nrziLevel
  | .amiPol => e.amiPol
  | .ptPol => e.ptPol
  | .dmPrev => e.dmPrev

/-- R202: the initial value of an encoder register. -/
def EncReg.initial : EncReg → Bit
  | .nrziLevel => false
  | .amiPol => true
  | .ptPol => true
  | .dmPrev => true

/-- R132: the register the multiplexer routes for a scheme; the stateless schemes have none. -/
def schemeReg : Scheme → Option EncReg
  | .nrzL => none
  | .nrzI => some .nrziLevel
  | .bipolarAmi => some .amiPol
  | .pseudoternary => some .ptPol
  | .manchester => none
  | .diffManchester => some .dmPrev

end Sys2Proof.Machine
end

