-- ==== Sys2Proof/Machine/Bipolar.lean ====
section
/-! DEFINITION. The bipolar family (41_bipolar.md): Bipolar-AMI and Pseudoternary. -/

namespace Sys2Proof.Machine

/-- R110: `T_AMI`: a mark is emitted first, then the polarity inverts. -/
def tAmi (b : Bit) (e : Encoder) : Encoder :=
  if b then { e.emit (Level.ofBit e.amiPol) with amiPol := !e.amiPol } else e.emit .mid

/-- R112: `T_PT`: marks are on 0. -/
def tPt (b : Bit) (e : Encoder) : Encoder :=
  if b then e.emit .mid else { e.emit (Level.ofBit e.ptPol) with ptPol := !e.ptPol }

/-- Row AMI (R110). -/
def execAmi (b : Bit) (s : State) : Outcome := .next (s.setEnc (tAmi b s.enc))

/-- Row PSEUDOTERNARY (R112). -/
def execPseudoternary (b : Bit) (s : State) : Outcome := .next (s.setEnc (tPt b s.enc))

end Sys2Proof.Machine
end

