-- ==== Sys2Proof/Machine/Layout.lean ====
section
/-! DEFINITION. The waveform layout engine (44_layout.md): step path, label boxes, bounds, and the waveform a path describes. -/

namespace Sys2Proof.Machine

/-- R161: the extended level sequence; the empty sequence has no extension (R169). -/
def extend (lv : List Level) : List Level := lv ++ lv.getLast?.toList

/-- R162: the step path. -/
def stepPath (lv : List Level) : List PathPoint := (extend lv).zipIdx.map fun p => ⟨p.2, p.1⟩

/-- R166 to R168: the label box of bit `i`, whose value is `b`, for an arity `k`. -/
def labelBox (k i : Nat) (b : Bit) : LabelBox :=
  { start := i * k, width := k, centre2 := 2 * i * k + k, text := symbolOf b }

/-- R166: one box for every bit, in order. -/
def labelBoxes (k : Nat) (bits : List Bit) : List LabelBox := bits.zipIdx.map fun p => labelBox k p.2 p.1

/-- R171: `LAYOUT(s, B, LV)`, with the parameters of the block. -/
def layout (p : Params) (s : Scheme) (bits : List Bit) (lv : List Level) : Plot :=
  { path := stepPath lv
    boxes := labelBoxes (spb s) bits
    xMin := 0
    xMax := lv.length
    yMin := p.yMin
    yMax := p.yMax
    labelY0 := p.labelY0
    labelH := p.labelH }

/-- R163: the step function `w(t)` a path describes on `0 ≤ t ≤ N`: each point's level holds up to the next point. -/
def Plot.waveAt (p : Plot) (t : Rat) : Option Level :=
  if 0 ≤ t ∧ t ≤ (p.xMax : Rat) then p.path[⌊t⌋.toNat]?.map PathPoint.h else none

/-- R163: whether a vertical edge stands at time `k`. -/
def Plot.edgeAt (p : Plot) : Nat → Bool
  | 0 => false
  | k + 1 => decide (p.path[k]?.map PathPoint.h ≠ p.path[k + 1]?.map PathPoint.h) && decide (k + 1 ≤ p.xMax)

end Sys2Proof.Machine
end

