-- ==== Sys2Proof/Machine/Manchester.lean ====
section
/-! DEFINITION. The Manchester family (42_manchester.md): Manchester and Differential-Manchester. -/

namespace Sys2Proof.Machine

/-- R120: `T_MAN`, first half first. -/
def tMan (b : Bit) (e : Encoder) : Encoder :=
  if b then (e.emit .low).emit .high else (e.emit .high).emit .low

/-- R122: `T_DM`, the source's table case by case. -/
def tDm (b : Bit) (e : Encoder) : Encoder :=
  match b, e.dmPrev with
  | false, false => { (e.emit .high).emit .low with dmPrev := false }
  | false, true => { (e.emit .low).emit .high with dmPrev := true }
  | true, false => { (e.emit .low).emit .high with dmPrev := true }
  | true, true => { (e.emit .high).emit .low with dmPrev := false }

/-- Row MANCHESTER (R120). -/
def execManchester (b : Bit) (s : State) : Outcome := .next (s.setEnc (tMan b s.enc))

/-- Row DIFF-MANCHESTER (R122). -/
def execDiffManchester (b : Bit) (s : State) : Outcome := .next (s.setEnc (tDm b s.enc))

end Sys2Proof.Machine
end

