-- ==== Sys2Proof/Machine/Nrz.lean ====
section
/-! DEFINITION. The NRZ family (40_nrz.md): NRZ-L and NRZ-I. -/

namespace Sys2Proof.Machine

/-- R100: `T_NRZL`. -/
def tNrzL (b : Bit) (e : Encoder) : Encoder := e.emit (Level.ofBit b)

/-- R102: `T_NRZI`: invert first when the bit is 1, then emit the new level. -/
def tNrzI (b : Bit) (e : Encoder) : Encoder :=
  let e' := if b then { e with nrziLevel := !e.nrziLevel } else e
  e'.emit (Level.ofBit e'.nrziLevel)

/-- Row NRZ-L (R100). -/
def execNrzL (b : Bit) (s : State) : Outcome := .next (s.setEnc (tNrzL b s.enc))

/-- Row NRZ-I (R102). -/
def execNrzI (b : Bit) (s : State) : Outcome := .next (s.setEnc (tNrzI b s.enc))

end Sys2Proof.Machine
end

