-- ==== Sys2Proof/Machine/Mux.lean ====
section
/-! DEFINITION. Symbol reads, the scheme multiplexer, the encoder over a string and the pass (43_mux_and_commands.md R130 to
R138). -/

namespace Sys2Proof.Machine

/-- Row SYMBOL '0' (R130): END reads the byte 0x30, and its bit 0 joins B. -/
def execSymbol0 (s : State) : Outcome := .next (s.setEnc (s.enc.loadBit false))

/-- Row SYMBOL '1' (R130): END reads the byte 0x31, and its bit 1 joins B. -/
def execSymbol1 (s : State) : Outcome := .next (s.setEnc (s.enc.loadBit true))

/-- One symbol read of `bits(IN)` (R130). Validation has passed before (R137), so an invalid byte never gets here. -/
def loadByte (e : Encoder) (c : Byte) : Encoder :=
  match bitval c with
  | some b => e.loadBit b
  | none => e

/-- R137: `B <- bits(IN)`. -/
def loadBits (c : List Byte) (e : Encoder) : Encoder := c.foldl loadByte { e with bits := [] }

/-- R132: the multiplexer routes the transition of the scheme. -/
def transition : Scheme → Bit → Encoder → Encoder
  | .nrzL => tNrzL
  | .nrzI => tNrzI
  | .bipolarAmi => tAmi
  | .pseudoternary => tPt
  | .manchester => tMan
  | .diffManchester => tDm

/-- R202: all four registers take their initial values, whatever the scheme, and LV starts empty (R42). -/
def Encoder.init (e : Encoder) : Encoder :=
  { e with nrziLevel := false, amiPol := true, ptPol := true, dmPrev := true, lv := [] }

/-- R133: `ENC_s(B)` on the encoder unit. -/
def encodePhase (s : Scheme) (bits : List Bit) (e : Encoder) : Encoder :=
  bits.foldl (fun e b => transition s b e) e.init

/-- R133, R135: the levels `ENC_s(B)`, a function of `s` and `B`. -/
def encLevels (s : Scheme) (bits : List Bit) : List Level := (encodePhase s bits Encoder.powerOn).lv

/-- R136: `ENCODE(s, C)`. -/
def encodeChecked (s : Scheme) (c : List Byte) : Except ErrorCode (List Level) :=
  if valid c then .ok (encLevels s (bitsOf c)) else .error .invalidSymbol

/-- R137: `COMPUTE()`: the response, and the encoder unit after it. A failed check leaves the unit alone (R182); after OK,
LV and B are discarded (R42) and the registers keep what the last transition left. -/
def compute (s : State) : Response × Encoder :=
  match decodeScheme s.sel with
  | none => (.err .reservedScheme, s.enc)
  | some sc =>
    if s.ovf then (.err .capacity, s.enc)
    else if valid s.inBuf then
      let e := loadBits s.inBuf s.enc
      let e' := encodePhase sc e.bits e
      (.ok { scheme := sc, levels := e'.lv, plot := layout s.params sc e'.bits e'.lv }, e'.discard)
    else (.err .invalidSymbol, s.enc)

/-- R138: `PASS(sel, C)`, for a block with parameters `p`. -/
def passResponse (p : Params) (sel : SelCode) (c : List Byte) : Response :=
  match decodeScheme sel with
  | none => .err .reservedScheme
  | some sc =>
    if p.exceeds c.length then .err .capacity
    else if valid c then
      .ok { scheme := sc, levels := encLevels sc (bitsOf c),
            plot := layout p sc (bitsOf c) (encLevels sc (bitsOf c)) }
    else .err .invalidSymbol

end Sys2Proof.Machine
end

