-- ==== Sys2Proof/Machine/Commands.lean ====
section
/-! DEFINITION. The commands START, SYM and END, the answer to a reserved word, and the RESET event (43_mux_and_commands.md
R139 to R142, 60_exceptions.md R185). -/

namespace Sys2Proof.Machine

/-- START (R139): opens a pass; never fails. -/
def execStart (sss : SelCode) (s : State) : Outcome :=
  .next (((((s.setPassOpen true).setSel sss).clearIn).setOvf false).respond .ack)

/-- SYM (R140): appends a byte, checked for validity only at END. -/
def execSym (d : Byte) (s : State) : Outcome :=
  if s.passOpen then
    if s.params.atCapacity s.inputPos then .next ((s.setOvf true).raise .capacity)
    else .next ((s.memWrite s.inputPos d).respond .ack)
  else .next (s.raise .sequence)

/-- The last writes of END (R141): the pass is closed whatever the response. -/
def State.closePass (s : State) : State := ((s.setPassOpen false).clearIn).setOvf false

/-- END (R141): computes, closes the pass, responds. -/
def execEnd (s : State) : Outcome :=
  if s.passOpen then .next (((s.setEnc (compute s).2).closePass).respond (compute s).1)
  else .next (s.raise .sequence)

/-- R185: a reserved word changes no state and gets its error. -/
def reservedWord (s : State) : Outcome := .next (s.raise .reservedCommand)

/-- R142: what a RESET event leaves unspecified in the encoder unit takes free values; LV and B are no part of it. -/
def Encoder.unspecified (e : Encoder) (n : Nat) : Encoder :=
  { e with nrziLevel := Config.freeNrziLevel n, amiPol := Config.freeAmiPol n, ptPol := Config.freePtPol n,
           dmPrev := Config.freeDmPrev n }

/-- RESET, an input event (R142): closes and discards the pass without a response; SEL and the encoder registers take free
values (log 8). The spec does not say whether what RESET leaves unspecified is independent between two instances (R51, R194). DESIGN
CHOICE, unsafe: the free values depend on the count `fresh` alone, so two instances with equal counts get equal ones (log 8, log 17). -/
def resetEvent (s : State) : Outcome :=
  .next (((s.closePass.setSel (Config.freeSel s.fresh)).setEnc (s.enc.unspecified s.fresh)).nextFresh)

end Sys2Proof.Machine
end

