-- ==== Sys2Proof/Machine/Dispatch.lean ====
section
/-! DEFINITION. The meaning of every instruction, one arm per constructor. -/

namespace Sys2Proof.Machine

def exec (i : Instr) (s : State) : Host.Outcome State Fault Refusal :=
  match i with
  -- commands (R139 to R141)
  | .start sss => Sys2Proof.Machine.execStart sss s
  | .sym d => Sys2Proof.Machine.execSym d s
  | .endPass => Sys2Proof.Machine.execEnd s
  -- transitions of the encoders (R100 to R122)
  | .nrzL b => Sys2Proof.Machine.execNrzL b s
  | .nrzI b => Sys2Proof.Machine.execNrzI b s
  | .ami b => Sys2Proof.Machine.execAmi b s
  | .pseudoternary b => Sys2Proof.Machine.execPseudoternary b s
  | .manchester b => Sys2Proof.Machine.execManchester b s
  | .diffManchester b => Sys2Proof.Machine.execDiffManchester b s
  -- symbol reads (R130)
  | .symbol0 => Sys2Proof.Machine.execSymbol0 s
  | .symbol1 => Sys2Proof.Machine.execSymbol1 s

end Sys2Proof.Machine
end

