-- ==== Sys2Proof/Machine/Step.lean ====
section
/-! DEFINITION. One step of the block (43_mux_and_commands.md R143), and how the next instruction is placed where a step takes
it. -/

namespace Sys2Proof.Machine

/-- R143: the block takes the oldest event of the command port and performs it whole (R5, R45). With nothing issued it waits
(R47, R200). -/
def step (s : State) : Host.Outcome State Fault Refusal :=
  match s.port with
  | [] => .next s
  | .reset :: rest => resetEvent (s.setPort rest)
  | .command w :: rest =>
    match decodeCommand w with
    | .instr i => exec i (s.setPort rest)
    | .reserved _ => reservedWord (s.setPort rest)

/-- The END command, as the host issues it (R65). -/
def endEvent : PortEvent := .command 0xC000#16

/-- A pass is open under the scheme code `c` with the one symbol `d` stored, and END is the next command. -/
def State.aboutToEncode (s : State) (c : SelCode) (d : Byte) : State :=
  { s with passOpen := true, sel := c, ovf := false, inBuf := [d], port := endEvent :: s.port }

/-- The state whose next step runs the instruction of a table row (log 10). A command word goes to the front of the command
port. A transition or a symbol read is no command: END performs it, selected by SEL and by the bytes of IN (R132, R137). So for a
SEL code the next step is an END of a pass under that code with the one symbol '0', and for a SYMBOL byte it is an END of an NRZ-L
pass with that one byte. -/
def State.withFetchWord (s : State) (nbits w : Nat) : State :=
  match tableWord nbits w with
  | .cmd cw => { s with port := .command cw :: s.port }
  | .sel c b => s.aboutToEncode c (symbolOf b)
  | .symbol d => s.aboutToEncode (schemeCode .nrzL) d

end Sys2Proof.Machine
end

