-- ==== Sys2Proof/WellFormed.lean ====
section
/-! DEFINITION. The checks on terms: instructions, assembler lines (30_encoding.md R75) and parameters (00_scope.md R6). -/

namespace Sys2Proof

/-- Every operand of an instruction fills its field exactly (R61, R63 to R65, R67, R69: all 8 scheme codes and all 256
bytes are well-formed), and its type is that field, so no term of `Instr` is ill-formed. -/
def Instr.wf : Instr → Bool
  | .start _ => true
  | .sym _ => true
  | .endPass => true
  | .nrzL _ => true
  | .nrzI _ => true
  | .ami _ => true
  | .pseudoternary _ => true
  | .manchester _ => true
  | .diffManchester _ => true
  | .symbol0 => true
  | .symbol1 => true

/-- R75: `START #n` takes n = 0..7, `SYM 0xhh` any byte, `.word 0xhhhh` any 16-bit word. -/
def AsmLine.wf : AsmLine → Bool
  | .startScheme _ => true
  | .startCode n => decide (n < 8)
  | .symBit _ => true
  | .symByte n => decide (n < 256)
  | .endPass => true
  | .word n => decide (n < 65536)
  | .pass _ _ => true

/-- R6: `MAX_BITS` is at least 1 or `∞`. -/
def Params.maxBitsOk (p : Params) : Bool :=
  match p.maxBits with
  | none => true
  | some m => decide (1 ≤ m)

/-- R6 and R165: the constraints on the parameters. -/
def Params.wf (p : Params) : Bool :=
  p.maxBitsOk && decide (p.yMin ≤ 0) && decide (1 ≤ p.labelY0) && decide (0 < p.labelH) &&
    decide (p.labelY0 + p.labelH ≤ p.yMax)

end Sys2Proof
end

