-- ==== Sys2Proof/Machine/Assembler.lean ====
section
/-! DEFINITION. The text syntax of commands (30_encoding.md R75) and the pseudo-instruction PASS (R76): from characters to lines, and
from lines to command words. Spacing, digits and the case of everything but scheme names are DESIGN CHOICES (log 16). -/

namespace Sys2Proof.Machine

/-- The command word of `START` (R63). -/
def startWord (c : SelCode) : CommandWord := commandWord 0b01#2 0#3 c 0#8

/-- The command word of `SYM` (R64). -/
def symWord (d : Byte) : CommandWord := commandWord 0b10#2 0#3 0#3 d

/-- The command word of `END` (R65). -/
def endWord : CommandWord := 0xC000#16

/-- The words of a line (R75); a PASS expands as R76 says. -/
def assemble : AsmLine → List CommandWord
  | .startScheme s => [startWord (schemeCode s)]
  | .startCode n => [BitVec.ofNat 16 (0x4000 + n * 256)]
  | .symBit b => [symWord (symbolOf b)]
  | .symByte n => [BitVec.ofNat 16 (0x8000 + n)]
  | .endPass => [endWord]
  | .word n => [BitVec.ofNat 16 n]
  | .pass s bits => startWord (schemeCode s) :: (bits.map fun b => symWord (symbolOf b)) ++ [endWord]

/-! Reading text. -/

/-- The token read so far, if there is one. -/
def flushToken (cur : List Char) : List (List Char) := if cur.isEmpty then [] else [cur]

/-- The tokens of a line: characters between blanks, up to a comment (R75). -/
def tokens (cur : List Char) : List Char → List (List Char)
  | [] => flushToken cur
  | c :: cs =>
    if c = ';' then flushToken cur
    else if c = ' ' ∨ c = '\t' ∨ c = '\r' then flushToken cur ++ tokens [] cs
    else tokens (cur ++ [c]) cs

/-- R75: the scheme of a name, whatever its case, with the two synonyms. -/
def schemeOfName (name : List Char) : Option Scheme :=
  let n := name.map Char.toUpper
  if n = "NRZ-L".toList then some .nrzL
  else if n = "NRZ-I".toList then some .nrzI
  else if n = "AMI".toList ∨ n = "BIPOLAR-AMI".toList then some .bipolarAmi
  else if n = "PSEUDOTERNARY".toList then some .pseudoternary
  else if n = "MANCHESTER".toList then some .manchester
  else if n = "DIFF-MANCHESTER".toList ∨ n = "DIFFERENTIAL-MANCHESTER".toList then some .diffManchester
  else none

/-- The value of a hexadecimal digit. -/
def hexDigit (c : Char) : Option Nat :=
  if '0' ≤ c ∧ c ≤ '9' then some (c.toNat - 48)
  else if 'a' ≤ c ∧ c ≤ 'f' then some (c.toNat - 87)
  else if 'A' ≤ c ∧ c ≤ 'F' then some (c.toNat - 55)
  else none

/-- The number that hexadecimal digits write, after the number `acc`. -/
def hexNumber (acc : Nat) : List Char → Option Nat
  | [] => some acc
  | c :: cs =>
    match hexDigit c with
    | some d => hexNumber (acc * 16 + d) cs
    | none => none

/-- `0x` and then `digits` hexadecimal digits. -/
def hexLiteral (digits : Nat) : List Char → Option Nat
  | '0' :: 'x' :: ds => if ds.length = digits then hexNumber 0 ds else none
  | _ => none

/-- A symbol character. -/
def bitOfChar (c : Char) : Option Bit :=
  if c = '0' then some false else if c = '1' then some true else none

/-- Symbol characters up to a closing quote that ends the token. -/
def quotedBits : List Char → Option (List Bit)
  | [] => none
  | c :: cs =>
    if c = '"' then (if cs.isEmpty then some [] else none)
    else
      match bitOfChar c, quotedBits cs with
      | some b, some bs => some (b :: bs)
      | _, _ => none

/-- The operand of `START`: `#n` with one digit 0 to 7, or a scheme name. -/
def parseStart : List Char → Option AsmLine
  | ['#', c] => if '0' ≤ c ∧ c ≤ '7' then some (.startCode (c.toNat - 48)) else none
  | name => (schemeOfName name).map .startScheme

/-- The operand of `SYM`: a quoted symbol or a byte. -/
def parseSym : List Char → Option AsmLine
  | ['\'', c, '\''] => (bitOfChar c).map .symBit
  | t => (hexLiteral 2 t).map .symByte

/-- The operands of `PASS`: a scheme name with its comma, a quoted bit string (R76). -/
def parsePass (name : List Char) (quoted : List Char) : Option AsmLine :=
  match name.getLast?, quoted with
  | some ',', '"' :: cs =>
    match schemeOfName name.dropLast, quotedBits cs with
    | some s, some bs => some (.pass s bs)
    | _, _ => none
  | _, _ => none

/-- What a line of text says: `some none` for a line that holds no command, `none` for text that is not in the syntax. -/
def parseLine (line : List Char) : Option (Option AsmLine) :=
  match tokens [] line with
  | [] => some none
  | [a] => if a = "END".toList then some (some .endPass) else none
  | [a, x] =>
    if a = "START".toList then (parseStart x).map some
    else if a = "SYM".toList then (parseSym x).map some
    else if a = ".word".toList then ((hexLiteral 4 x).map .word).map some
    else none
  | [a, x, y] => if a = "PASS".toList then (parsePass x y).map some else none
  | _ => none

/-- The command words of a text, one command per line. -/
def assembleText : List (List Char) → Option (List CommandWord)
  | [] => some []
  | line :: rest =>
    match parseLine line, assembleText rest with
    | some none, some ws => some ws
    | some (some l), some ws => some (assemble l ++ ws)
    | _, _ => none

end Sys2Proof.Machine
end

