-- ==== Sys2Proof/Machine/Runs.lean ====
section
/-! DEFINITION. Runs: several steps of one block, a list of data-path operations inside END (43_mux_and_commands.md R133), and one
step of one instance among several (20_memory.md R51, 60_exceptions.md R194). -/

namespace Sys2Proof.Machine

/-- `n` steps, one event of the command port each (R48). -/
def run : Nat → State → Outcome
  | 0, s => .next s
  | n + 1, s =>
    match step s with
    | .next t => run n t
    | .fault r => .fault r
    | .refused r => .refused r

/-- One instance of a deployment, the one numbered `k`, takes a step; a number that names no instance changes nothing.
All instances read the same free values after RESET, each at its own count (DESIGN CHOICE, log 17). -/
def stepInstance (k : Nat) (d : List State) : Host.Outcome (List State) Fault Refusal :=
  match d[k]? with
  | none => .next d
  | some s =>
    match step s with
    | .next t => .next (d.set k t)
    | .fault r => .fault r
    | .refused r => .refused r

/-- Instructions performed one after the other, without a step between them: how END performs its symbol reads and transitions
(R133, R137), so that a statement can say so. -/
def execSeq : List Instr → State → Outcome
  | [], s => .next s
  | i :: is, s =>
    match exec i s with
    | .next t => execSeq is t
    | .fault r => .fault r
    | .refused r => .refused r

end Sys2Proof.Machine
end

