-- ==== Sys2Proof/Safety.lean ====
section
/-! DEFINITION. What claims are stated in: the invariant of the block and what the host can observe. -/

namespace Sys2Proof.Machine

/-- What every state at a command boundary meets. -/
structure State.Inv (s : State) : Prop where
  /-- R6: the parameters are admissible. -/
  params_wf : s.params.wf = true
  /-- R33: `len(IN) ≤ MAX_BITS`. -/
  in_fits : s.params.exceeds s.inBuf.length = false
  /-- R201: with no pass open, IN is empty and OVF is 0. -/
  closed_empty : s.passOpen = false → s.inBuf = [] ∧ s.ovf = false
  /-- R26: OVF says that IN is full. -/
  ovf_full : s.ovf = true → s.params.atCapacity s.inBuf.length = true
  /-- R42, R45: no encode phase is in progress. -/
  lv_empty : s.enc.lv = []
  bits_empty : s.enc.bits = []

/-- Two blocks that may differ only in what R200 says is unobservable: SEL while no pass is open, the encoder registers and the
count of free values used. -/
structure State.SameToHost (s t : State) : Prop where
  params : s.params = t.params
  passOpen : s.passOpen = t.passOpen
  ovf : s.ovf = t.ovf
  inBuf : s.inBuf = t.inBuf
  port : s.port = t.port
  responses : s.responses = t.responses
  sel : s.passOpen = true → s.sel = t.sel

/-- The command words of a pass (R76, R150): START with the code `sel`, a SYM for every byte, END. -/
def passEvents (sel : SelCode) (c : List Byte) : List PortEvent :=
  .command (commandWord 0b01#2 0#3 sel 0#8) ::
    (c.map fun d => .command (commandWord 0b10#2 0#3 0#3 d)) ++ [endEvent]

/-- R150: the response to the SYM of the byte at position `k` of a pass. -/
def symResponse (p : Params) (k : Nat) : Response :=
  match p.maxBits with
  | none => .ack
  | some m => if k < m then .ack else .err .capacity

/-- R150: the responses to the SYMs of a pass of `m` bytes. -/
def symResponses (p : Params) (m : Nat) : List Response := (List.range m).map (symResponse p)

/-- The parity of a bit string: the exclusive-or of its bits. -/
def parity (bits : List Bit) : Bit := bits.foldl xor false

end Sys2Proof.Machine
end

