-- ==== Sys2Proof/Certificates/Slice0/Obligations.lean ====
section
/-! DEFINITION. The statements for the provers, by the spec's rules. -/

open Sys2Proof Sys2Proof.Machine

/-! ## Encodings -/

/-- Words written out from R63 to R65, R67 and R69 and from the rows of 95_test_vectors.md section 2.8. -/
def Obligations.WrittenWordsDecode : Prop :=
  decode (.cmd 0x4000#16) = .instr (.start 0b000#3) ∧ decode (.cmd 0x4500#16) = .instr (.start 0b101#3) ∧
  decode (.cmd 0x4700#16) = .instr (.start 0b111#3) ∧ decode (.cmd 0x8030#16) = .instr (.sym 0x30#8) ∧
  decode (.cmd 0x80FF#16) = .instr (.sym 0xFF#8) ∧ decode (.cmd 0xC000#16) = .instr .endPass ∧
  decode (.cmd 0x0000#16) = .reserved .reservedOp ∧ decode (.cmd 0x4800#16) = .reserved .startFields ∧
  decode (.cmd 0x4001#16) = .reserved .startFields ∧ decode (.cmd 0x8100#16) = .reserved .symFields ∧
  decode (.cmd 0xC001#16) = .reserved .endFields ∧ decode (.sel 0b010#3 true) = .instr (.ami true) ∧
  decode (.sel 0b110#3 false) = .reserved .reservedScheme ∧ decode (.symbol 0x31#8) = .instr .symbol1 ∧
  decode (.symbol 0x32#8) = .reserved .invalidSymbol

/-- R61, R62: the four fields of every command word. -/
def Obligations.CommandWordFields : Prop :=
  (∀ sss, ∃ w, encode (.start sss) = .cmd w ∧ w.extractLsb 15 14 = 0b01#2 ∧ w.extractLsb 13 11 = 0#3 ∧
    w.extractLsb 10 8 = sss ∧ w.extractLsb 7 0 = 0#8) ∧
  (∀ d, ∃ w, encode (.sym d) = .cmd w ∧ w.extractLsb 15 14 = 0b10#2 ∧ w.extractLsb 13 11 = 0#3 ∧
    w.extractLsb 10 8 = 0#3 ∧ w.extractLsb 7 0 = d) ∧
  (∃ w, encode .endPass = .cmd w ∧ w.extractLsb 15 14 = 0b11#2 ∧ w.extractLsb 13 11 = 0#3 ∧
    w.extractLsb 10 8 = 0#3 ∧ w.extractLsb 7 0 = 0#8) ∧
  (∀ w : CommandWord, w.extractLsb 15 14 = 0b00#2 → ∃ why, decode (.cmd w) = .reserved why)

/-- R74: the four-way test, outcome by outcome, by the bits of the word. -/
def Obligations.DecodeFourWayTest : Prop :=
  ∀ w : CommandWord,
    (∀ sss, decode (.cmd w) = .instr (.start sss) ↔
      w.extractLsb 15 14 = 0b01#2 ∧ w.extractLsb 13 11 = 0#3 ∧ w.extractLsb 7 0 = 0#8 ∧ w.extractLsb 10 8 = sss) ∧
    (∀ d, decode (.cmd w) = .instr (.sym d) ↔
      w.extractLsb 15 14 = 0b10#2 ∧ w.extractLsb 13 8 = 0#6 ∧ w.extractLsb 7 0 = d) ∧
    (decode (.cmd w) = .instr .endPass ↔ w.extractLsb 15 14 = 0b11#2 ∧ w.extractLsb 13 0 = 0#14) ∧
    ((∃ sss, decode (.cmd w) = .instr (.start sss)) ∨ (∃ d, decode (.cmd w) = .instr (.sym d)) ∨
      decode (.cmd w) = .instr .endPass ∨ ∃ why, decode (.cmd w) = .reserved why)

/-- R66: exactly which words are reserved, what a step does with one, and how many words each command has. -/
def Obligations.ReservedWordsExactly : Prop :=
  (∀ w : CommandWord, (∃ why, decode (.cmd w) = .reserved why) ↔
    (w.extractLsb 15 14 = 0b00#2 ∨
     (w.extractLsb 15 14 = 0b01#2 ∧ (w.extractLsb 13 11 ≠ 0#3 ∨ w.extractLsb 7 0 ≠ 0#8)) ∨
     (w.extractLsb 15 14 = 0b10#2 ∧ w.extractLsb 13 8 ≠ 0#6) ∨
     (w.extractLsb 15 14 = 0b11#2 ∧ w.extractLsb 13 0 ≠ 0#14))) ∧
  (∀ (s : State) (w : CommandWord) (why : Reject) (rest : List PortEvent),
    s.port = .command w :: rest → decode (.cmd w) = .reserved why →
    step s = .next { s with port := rest, responses := s.responses ++ [.err .reservedCommand] }) ∧
  (Finset.univ.filter fun w : CommandWord => ∃ sss, decode (.cmd w) = .instr (.start sss)).card = 8 ∧
  (Finset.univ.filter fun w : CommandWord => ∃ d, decode (.cmd w) = .instr (.sym d)).card = 256 ∧
  (Finset.univ.filter fun w : CommandWord => decode (.cmd w) = .instr .endPass).card = 1 ∧
  (Finset.univ.filter fun w : CommandWord => (decode (.cmd w)).instr? = none).card = 65271

/-- Decoding an encoded well-formed instruction gives it back (R63 to R65, R67, R69). -/
def Obligations.DecodeOfEncode : Prop :=
  ∀ i : Instr, i.wf = true → decode (encode i) = .instr i

/-- Every encoded word has one meaning: what decodes to an instruction is that instruction's word (R63 to R66, R67 to R69, R74). -/
def Obligations.EncodeOfDecode : Prop :=
  ∀ (e : Encoded) (i : Instr), decode e = .instr i → encode i = e

/-- R67, R131: the scheme codes and the columns of their table. -/
def Obligations.SchemeCodeTable : Prop :=
  decodeScheme 0b000#3 = some .nrzL ∧ decodeScheme 0b001#3 = some .nrzI ∧ decodeScheme 0b010#3 = some .bipolarAmi ∧
  decodeScheme 0b011#3 = some .pseudoternary ∧ decodeScheme 0b100#3 = some .manchester ∧
  decodeScheme 0b101#3 = some .diffManchester ∧ decodeScheme 0b110#3 = none ∧ decodeScheme 0b111#3 = none ∧
  (∀ s, decodeScheme (schemeCode s) = some s) ∧
  spb .nrzL = 1 ∧ spb .nrzI = 1 ∧ spb .bipolarAmi = 1 ∧ spb .pseudoternary = 1 ∧ spb .manchester = 2 ∧ spb .diffManchester = 2 ∧
  schemeReg .nrzL = none ∧ schemeReg .nrzI = some .nrziLevel ∧ schemeReg .bipolarAmi = some .amiPol ∧
  schemeReg .pseudoternary = some .ptPol ∧ schemeReg .manchester = none ∧ schemeReg .diffManchester = some .dmPrev ∧
  (∀ s b, decode (.sel (schemeCode s) b) = .instr (transitionInstr s b))

/-- R69: the valid symbols, their bits, and what a pass with an invalid symbol answers. -/
def Obligations.SymbolCodes : Prop :=
  (∀ c : Byte, isSymbol c = true ↔ c = 0x30#8 ∨ c = 0x31#8) ∧
  bitval 0x30#8 = some false ∧ bitval 0x31#8 = some true ∧
  (∀ c : Byte, c ≠ 0x30#8 → c ≠ 0x31#8 → bitval c = none ∧ decode (.symbol c) = .reserved .invalidSymbol) ∧
  decode (.symbol 0x30#8) = .instr .symbol0 ∧ decode (.symbol 0x31#8) = .instr .symbol1 ∧
  (∀ (p : Params) (sc : Scheme) (cs : List Byte), p.exceeds cs.length = false →
    (∃ c ∈ cs, c ≠ 0x30#8 ∧ c ≠ 0x31#8) → passResponse p (schemeCode sc) cs = .err .invalidSymbol)

/-- R70: the half-unit code of a level, `h = 2 × level`. -/
def Obligations.LevelCodes : Prop :=
  Level.code .low = 0b00#2 ∧ Level.code .mid = 0b01#2 ∧ Level.code .high = 0b10#2 ∧
  Level.value .low = 0 ∧ Level.value .mid = 1 / 2 ∧ Level.value .high = 1 ∧
  (∀ l : Level, (l.code.toNat : Rat) = 2 * l.value) ∧ (∀ l : Level, Level.ofCode l.code = some l)

/-- R71: code 3 is never emitted, and MID only by the two bipolar schemes. -/
def Obligations.LevelsEmitted : Prop :=
  ∀ (s : Scheme) (bits : List Bit) (l : Level), l ∈ encLevels s bits →
    l.code ≠ 0b11#2 ∧ (l = .mid → s = .bipolarAmi ∨ s = .pseudoternary)

/-- R72: exactly one response per command, which ones a command can return, and their codes. -/
def Obligations.OneResponsePerCommand : Prop :=
  (∀ (s : State) (w : CommandWord) (rest : List PortEvent), s.port = .command w :: rest →
    ∃ t r, step s = .next t ∧ t.responses = s.responses ++ [r] ∧ t.port = rest ∧
      (∀ sss, decode (.cmd w) = .instr (.start sss) → r = .ack) ∧
      (∀ d, decode (.cmd w) = .instr (.sym d) → r = .ack ∨ r = .err .capacity ∨ r = .err .sequence) ∧
      (decode (.cmd w) = .instr .endPass → (∃ x, r = .ok x) ∨ r = .err .invalidSymbol ∨ r = .err .reservedScheme ∨
        r = .err .capacity ∨ r = .err .sequence) ∧
      (∀ why, decode (.cmd w) = .reserved why → r = .err .reservedCommand)) ∧
  (∀ r : Response, r.code ∈ [0x0#4, 0x1#4, 0x8#4, 0x9#4, 0xA#4, 0xB#4, 0xC#4]) ∧
  Response.code .ack = 0x0#4 ∧ (∀ x, Response.code (.ok x) = 0x1#4) ∧ Response.code (.err .invalidSymbol) = 0x8#4 ∧
  Response.code (.err .reservedScheme) = 0x9#4 ∧ Response.code (.err .capacity) = 0xA#4 ∧
  Response.code (.err .sequence) = 0xB#4 ∧ Response.code (.err .reservedCommand) = 0xC#4

/-! ## Transitions and encoders -/

/-- R100: `T_NRZL`, with everything else unchanged; its code, arity, corner cases and worked example. -/
def Obligations.NrzLTransition : Prop :=
  (∀ (b : Bit) (s : State), exec (.nrzL b) s =
    .next { s with enc := { s.enc with lv := s.enc.lv ++ [if b then Level.high else Level.low] } }) ∧
  (∀ b, decode (.sel 0b000#3 b) = .instr (.nrzL b)) ∧ spb .nrzL = 1 ∧ schemeReg .nrzL = none ∧
  encLevels .nrzL [] = [] ∧ (∀ bits, Level.mid ∉ encLevels .nrzL bits) ∧
  encLevels .nrzL [true, false, true] = [.high, .low, .high]

/-- R102: `T_NRZI`: invert on 1, then emit; initial value 0; corner cases and worked example. -/
def Obligations.NrzITransition : Prop :=
  (∀ (b : Bit) (s : State), exec (.nrzI b) s =
    .next { s with enc := { s.enc with
      nrziLevel := xor s.enc.nrziLevel b
      lv := s.enc.lv ++ [if xor s.enc.nrziLevel b then Level.high else Level.low] } }) ∧
  (∀ b, decode (.sel 0b001#3 b) = .instr (.nrzI b)) ∧ spb .nrzI = 1 ∧
  (∀ e, (encodePhase .nrzI [] e).nrziLevel = false) ∧
  encLevels .nrzI [true] = [.high] ∧ encLevels .nrzI [false] = [.low] ∧
  (∀ n, encLevels .nrzI (List.replicate n false) = List.replicate n Level.low) ∧
  encLevels .nrzI [true, true, true, true] = [.high, .low, .high, .low] ∧
  (∀ bits, Level.mid ∉ encLevels .nrzI bits) ∧
  encLevels .nrzI [true, false, true, true] = [.high, .high, .low, .high]

/-- R110: `T_AMI`: a mark is emitted, then the polarity inverts; a 0 emits MID. -/
def Obligations.AmiTransition : Prop :=
  (∀ s : State, exec (.ami true) s =
    .next { s with enc := { s.enc with
      amiPol := !s.enc.amiPol
      lv := s.enc.lv ++ [if s.enc.amiPol then Level.high else Level.low] } }) ∧
  (∀ s : State, exec (.ami false) s = .next { s with enc := { s.enc with lv := s.enc.lv ++ [Level.mid] } }) ∧
  (∀ b, decode (.sel 0b010#3 b) = .instr (.ami b)) ∧ spb .bipolarAmi = 1 ∧
  (∀ e, (encodePhase .bipolarAmi [] e).amiPol = true) ∧
  encLevels .bipolarAmi [true] = [.high] ∧ encLevels .bipolarAmi [true, false, true] = [.high, .mid, .low] ∧
  (∀ n, encLevels .bipolarAmi (List.replicate n false) = List.replicate n Level.mid) ∧
  encLevels .bipolarAmi [true, true, true, true] = [.high, .low, .high, .low] ∧
  encLevels .bipolarAmi [true, true, false, true] = [.high, .low, .mid, .high]

/-- R112: `T_PT`: marks are on 0; the worked example as 90_conflicts.md C1 resolves it. -/
def Obligations.PseudoternaryTransition : Prop :=
  (∀ s : State, exec (.pseudoternary false) s =
    .next { s with enc := { s.enc with
      ptPol := !s.enc.ptPol
      lv := s.enc.lv ++ [if s.enc.ptPol then Level.high else Level.low] } }) ∧
  (∀ s : State, exec (.pseudoternary true) s = .next { s with enc := { s.enc with lv := s.enc.lv ++ [Level.mid] } }) ∧
  (∀ b, decode (.sel 0b011#3 b) = .instr (.pseudoternary b)) ∧ spb .pseudoternary = 1 ∧
  (∀ e, (encodePhase .pseudoternary [] e).ptPol = true) ∧
  encLevels .pseudoternary [false] = [.high] ∧
  (∀ n, encLevels .pseudoternary (List.replicate n true) = List.replicate n Level.mid) ∧
  encLevels .pseudoternary [false, false, false, false] = [.high, .low, .high, .low] ∧
  encLevels .pseudoternary [false, true, false, false] = [.high, .mid, .low, .high]

/-- R120: `T_MAN`, first half first, with the source's polarity. -/
def Obligations.ManchesterTransition : Prop :=
  (∀ (b : Bit) (s : State), exec (.manchester b) s =
    .next { s with enc := { s.enc with
      lv := s.enc.lv ++ (if b then [Level.low, Level.high] else [Level.high, Level.low]) } }) ∧
  (∀ b, decode (.sel 0b100#3 b) = .instr (.manchester b)) ∧ spb .manchester = 2 ∧ schemeReg .manchester = none ∧
  encLevels .manchester [] = [] ∧ encLevels .manchester [false, false] = [.high, .low, .high, .low] ∧
  (∀ bits, Level.mid ∉ encLevels .manchester bits) ∧
  encLevels .manchester [false, true] = [.high, .low, .low, .high]

/-- R122: `T_DM`, the emit table; the worked example as 90_conflicts.md C2 resolves it. -/
def Obligations.DiffManchesterTransition : Prop :=
  (∀ (b : Bit) (s : State), exec (.diffManchester b) s =
    .next { s with enc := { s.enc with
      dmPrev := xor s.enc.dmPrev b
      lv := s.enc.lv ++ (if xor s.enc.dmPrev b then [Level.low, Level.high] else [Level.high, Level.low]) } }) ∧
  (∀ b, decode (.sel 0b101#3 b) = .instr (.diffManchester b)) ∧ spb .diffManchester = 2 ∧
  (∀ e, (encodePhase .diffManchester [] e).dmPrev = true) ∧
  encLevels .diffManchester [false] = [.low, .high] ∧ encLevels .diffManchester [true] = [.high, .low] ∧
  encLevels .diffManchester [false, true] = [.low, .high, .high, .low] ∧
  encLevels .diffManchester [true, true] = [.high, .low, .low, .high] ∧
  encLevels .diffManchester [true, false] = [.high, .low, .high, .low] ∧
  (∀ bits, Level.mid ∉ encLevels .diffManchester bits) ∧
  encLevels .diffManchester [false, false] = [.low, .high, .low, .high]

/-- R130, R137: what END does with one symbol: its bit joins the bit string of the pass, and nothing else changes. That B stands in
State is the model's choice (log 9). -/
def Obligations.SymbolReads : Prop :=
  ∀ s : State,
    exec .symbol0 s = .next { s with enc := { s.enc with bits := s.enc.bits ++ [false] } } ∧
    exec .symbol1 s = .next { s with enc := { s.enc with bits := s.enc.bits ++ [true] } }

/-- R101: the closed form of NRZ-L. -/
def Obligations.NrzLClosedForm : Prop :=
  ∀ bits : List Bit,
    (encLevels .nrzL bits).length = bits.length ∧
    (∀ (i : Nat) (b : Bit), bits[i]? = some b → (encLevels .nrzL bits)[i]? = some (if b = true then Level.high else Level.low)) ∧
    (∀ (i : Nat) (a b : Bit), bits[i]? = some a → bits[i + 1]? = some b →
      ((encLevels .nrzL bits)[i]? ≠ (encLevels .nrzL bits)[i + 1]? ↔ a ≠ b))

/-- R103: the closed form of NRZ-I: the parity of the prefix. -/
def Obligations.NrzIClosedForm : Prop :=
  ∀ (bits : List Bit) (e : Encoder),
    (∀ i : Nat, i < bits.length →
      (encLevels .nrzI bits)[i]? = some (if parity (bits.take (i + 1)) then Level.high else Level.low) ∧
      (encodePhase .nrzI (bits.take (i + 1)) e).nrziLevel = parity (bits.take (i + 1))) ∧
    (∀ b, bits[0]? = some b → ((encLevels .nrzI bits)[0]? ≠ some .low ↔ b = true)) ∧
    (∀ (i : Nat) (b : Bit), bits[i + 1]? = some b → ((encLevels .nrzI bits)[i + 1]? ≠ (encLevels .nrzI bits)[i]? ↔ b = true))

/-- R111: the closed form of Bipolar-AMI: the marks alternate. -/
def Obligations.AmiClosedForm : Prop :=
  ∀ (bits : List Bit) (e : Encoder),
    (∀ i : Nat, bits[i]? = some false → (encLevels .bipolarAmi bits)[i]? = some Level.mid) ∧
    (∀ i : Nat, bits[i]? = some true → (bits.take i).count true % 2 = 0 → (encLevels .bipolarAmi bits)[i]? = some .high) ∧
    (∀ i : Nat, bits[i]? = some true → (bits.take i).count true % 2 = 1 → (encLevels .bipolarAmi bits)[i]? = some .low) ∧
    (∀ i : Nat, i ≤ bits.length →
      (encodePhase .bipolarAmi (bits.take i) e).amiPol = decide ((bits.take i).count true % 2 = 0)) ∧
    (∀ i j : Nat, i < j → bits[i]? = some true → bits[j]? = some true →
      (∀ k, i < k → k < j → bits[k]? = some false) →
      (encLevels .bipolarAmi bits)[i]? ≠ (encLevels .bipolarAmi bits)[j]?)

/-- R113: Pseudoternary is Bipolar-AMI of the complement, and its closed form. -/
def Obligations.PseudoternaryClosedForm : Prop :=
  ∀ bits : List Bit,
    encLevels .pseudoternary bits = encLevels .bipolarAmi (bits.map not) ∧
    (∀ i : Nat, bits[i]? = some true → (encLevels .pseudoternary bits)[i]? = some Level.mid) ∧
    (∀ i : Nat, bits[i]? = some false → (bits.take i).count false % 2 = 0 → (encLevels .pseudoternary bits)[i]? = some .high) ∧
    (∀ i : Nat, bits[i]? = some false → (bits.take i).count false % 2 = 1 → (encLevels .pseudoternary bits)[i]? = some .low)

/-- R121: the closed form of Manchester and its transitions. -/
def Obligations.ManchesterClosedForm : Prop :=
  ∀ bits : List Bit,
    (encLevels .manchester bits).length = 2 * bits.length ∧
    (∀ (i : Nat) (b : Bit), bits[i]? = some b →
      (encLevels .manchester bits)[2 * i]? = some (if b then Level.low else Level.high) ∧
      (encLevels .manchester bits)[2 * i + 1]? = some (if b then Level.high else Level.low)) ∧
    (∀ (i : Nat) (a b : Bit), bits[i]? = some a → bits[i + 1]? = some b →
      ((encLevels .manchester bits)[2 * i + 1]? ≠ (encLevels .manchester bits)[2 * (i + 1)]? ↔ a = b))

/-- R123: the closed form of Differential-Manchester, with `p_i` the complement of the parity of the bits up to `i`, and the four facts
about its transitions. -/
def Obligations.DiffManchesterClosedForm : Prop :=
  ∀ (bits : List Bit) (e : Encoder),
    (encLevels .diffManchester bits).length = 2 * bits.length ∧
    (∀ i : Nat, i < bits.length →
      (encLevels .diffManchester bits)[2 * i]? = some (if parity (bits.take (i + 1)) then Level.high else Level.low) ∧
      (encLevels .diffManchester bits)[2 * i + 1]? = some (if parity (bits.take (i + 1)) then Level.low else Level.high) ∧
      (encodePhase .diffManchester (bits.take (i + 1)) e).dmPrev = !parity (bits.take (i + 1)) ∧
      (encLevels .diffManchester bits)[2 * i]? ≠ (encLevels .diffManchester bits)[2 * i + 1]?) ∧
    (∀ b, bits[0]? = some b → ((encLevels .diffManchester bits)[0]? ≠ some .high ↔ b = false)) ∧
    (∀ (i : Nat) (b : Bit), bits[i + 1]? = some b →
      ((encLevels .diffManchester bits)[2 * (i + 1)]? ≠ (encLevels .diffManchester bits)[2 * i + 1]? ↔ b = false) ∧
      ((encLevels .diffManchester bits)[2 * (i + 1)]? = (encLevels .diffManchester bits)[2 * i]? ↔ b = false))

/-- R132: the multiplexer routes the transition, the register and the initial value of the scheme; the other registers are not
touched. END makes the selection, from SEL, and the layout engine gets the scheme's arity. -/
def Obligations.MuxRouting : Prop :=
  (∀ (s : Scheme) (b : Bit) (st : State),
    exec (transitionInstr s b) st = .next { st with enc := transition s b st.enc }) ∧
  (∀ (s : Scheme) (b : Bit) (e : Encoder) (r : EncReg), schemeReg s ≠ some r → (transition s b e).reg r = e.reg r) ∧
  (∀ (s : Scheme) (e : Encoder) (r : EncReg), schemeReg s = some r →
    (encodePhase s [] e).reg r = decide (s ≠ .nrzI)) ∧
  (∀ b, transitionInstr .nrzL b = .nrzL b ∧ transitionInstr .nrzI b = .nrzI b ∧ transitionInstr .bipolarAmi b = .ami b ∧
    transitionInstr .pseudoternary b = .pseudoternary b ∧ transitionInstr .manchester b = .manchester b ∧
    transitionInstr .diffManchester b = .diffManchester b) ∧
  (schemeReg .nrzL = none ∧ schemeReg .nrzI = some .nrziLevel ∧ schemeReg .bipolarAmi = some .amiPol ∧
    schemeReg .pseudoternary = some .ptPol ∧ schemeReg .manchester = none ∧ schemeReg .diffManchester = some .dmPrev) ∧
  (∀ s, spb s = if s = .manchester ∨ s = .diffManchester then 2 else 1) ∧
  ∀ (s : State) (sc : Scheme), s.passOpen = true → decodeScheme s.sel = some sc → s.ovf = false → valid s.inBuf = true →
    ∃ t r, exec .endPass s = .next t ∧ t.responses = s.responses ++ [.ok r] ∧ r.scheme = sc ∧
      r.levels = encLevels sc (bitsOf s.inBuf) ∧ ∀ x ∈ r.plot.boxes, x.width = spb sc

/-- R133, R202: every encode phase starts all four registers at 0, 1, 1, 1 with LV empty, for every scheme and for the empty string, and
then performs the transitions in order, first bit first. -/
def Obligations.EncodeIsFold : Prop :=
  (∀ (s : Scheme) (e : Encoder), encodePhase s [] e =
    { e with nrziLevel := false, amiPol := true, ptPol := true, dmPrev := true, lv := [] }) ∧
  (∀ (s : Scheme) (bits : List Bit) (b : Bit) (e : Encoder),
    encodePhase s (bits ++ [b]) e = transition s b (encodePhase s bits e)) ∧
  (∀ (s : Scheme) (bits : List Bit), encLevels s bits = (encodePhase s bits Encoder.powerOn).lv)

/-- R134: the length law. -/
def Obligations.LengthLaw : Prop :=
  ∀ (s : Scheme) (bits : List Bit), (encLevels s bits).length = bits.length * spb s

/-- R135: the levels depend only on the scheme and the bit string, whatever the encoder unit held before; so do the registers after. -/
def Obligations.EncodePurity : Prop :=
  ∀ (s : Scheme) (bits : List Bit) (e e' : Encoder),
    (encodePhase s bits e).lv = encLevels s bits ∧
    ∀ r, (encodePhase s bits e).reg r = (encodePhase s bits e').reg r

/-- R130: validation over the whole of IN, and the bit string it yields; nothing of an invalid string is ever encoded. -/
def Obligations.ValidationIsWholeString : Prop :=
  valid [] = true ∧
  ∀ s : State,
    (valid s.inBuf = true ↔
      ∀ k, k < s.inputPos → s.memRead k = some 0x30#8 ∨ s.memRead k = some 0x31#8) ∧
    (valid s.inBuf = true → (bitsOf s.inBuf).length = s.inputPos ∧
      ∀ k c, s.memRead k = some c → (bitsOf s.inBuf)[k]? = bitval c ∧ (bitval c).isSome = true) ∧
    (valid s.inBuf = false → ∃ t, exec .endPass s = .next t ∧ t.enc = s.enc ∧
      ∀ r : Result, t.responses ≠ s.responses ++ [.ok r])

/-- R136: the validated encoder, alike for all six schemes. -/
def Obligations.EncodeContract : Prop :=
  ∀ (s : Scheme) (c : List Byte),
    ((∀ x ∈ c, x = 0x30#8 ∨ x = 0x31#8) → encodeChecked s c = .ok (encLevels s (bitsOf c))) ∧
    ((∃ x ∈ c, x ≠ 0x30#8 ∧ x ≠ 0x31#8) → encodeChecked s c = .error .invalidSymbol) ∧
    encodeChecked s [] = .ok []

/-! ## Commands -/

/-- R139: START, with everything else unchanged; the corner case of two STARTs; the worked example. -/
def Obligations.StartOpensPass : Prop :=
  (∀ (sss : SelCode) (s : State), exec (.start sss) s =
    .next { s with passOpen := true, sel := sss, inBuf := [], ovf := false, responses := s.responses ++ [.ack] }) ∧
  (∀ (a b : SelCode) (s : State), ∃ t u v, exec (.start a) s = .next t ∧ exec (.start b) t = .next u ∧
    exec (.start b) s = .next v ∧ u = { v with responses := u.responses }) ∧
  (∀ p : Params, ∃ t, step ((State.powerOn p).issue [.command 0x4100#16]) = .next t ∧ t.responses = [.ack] ∧
    t.passOpen = true ∧ t.sel = 0b001#3 ∧ t.inBuf = [] ∧ t.ovf = false)

/-- R140: SYM in its three cases, with everything else unchanged; once IN is full every later SYM of the pass fails too; without a bound
none does. -/
def Obligations.SymAppends : Prop :=
  ∀ (d : Byte) (s : State),
    (s.passOpen = false → exec (.sym d) s = .next { s with responses := s.responses ++ [.err .sequence] }) ∧
    (s.passOpen = true → s.params.maxBits = some s.inBuf.length →
      exec (.sym d) s = .next { s with ovf := true, responses := s.responses ++ [.err .capacity] } ∧
      ∀ d' t, exec (.sym d) s = .next t →
        exec (.sym d') t = .next { t with responses := t.responses ++ [.err .capacity] }) ∧
    (s.passOpen = true → s.params.maxBits ≠ some s.inBuf.length →
      exec (.sym d) s = .next { s with inBuf := s.inBuf ++ [d], responses := s.responses ++ [.ack] }) ∧
    (s.passOpen = true → s.params.maxBits = none →
      exec (.sym d) s = .next { s with inBuf := s.inBuf ++ [d], responses := s.responses ++ [.ack] })

/-- R137, R141, R186: END in its five cases, tested in the order of the spec, with everything else unchanged: SEL always, the encoder
registers on every error; the corner cases and the worked example of R141. -/
def Obligations.EndPassByCases : Prop :=
  ∀ s : State,
    (s.passOpen = false → exec .endPass s = .next { s with responses := s.responses ++ [.err .sequence] }) ∧
    (s.passOpen = true → decodeScheme s.sel = none → exec .endPass s =
      .next { s with passOpen := false, inBuf := [], ovf := false,
                     responses := s.responses ++ [.err .reservedScheme] }) ∧
    (∀ sc, s.passOpen = true → decodeScheme s.sel = some sc → s.ovf = true → exec .endPass s =
      .next { s with passOpen := false, inBuf := [], ovf := false, responses := s.responses ++ [.err .capacity] }) ∧
    (∀ sc, s.passOpen = true → decodeScheme s.sel = some sc → s.ovf = false →
      (∃ c ∈ s.inBuf, c ≠ 0x30#8 ∧ c ≠ 0x31#8) → exec .endPass s =
      .next { s with passOpen := false, inBuf := [], ovf := false,
                     responses := s.responses ++ [.err .invalidSymbol] }) ∧
    (∀ sc, s.passOpen = true → decodeScheme s.sel = some sc → s.ovf = false →
      (∀ c ∈ s.inBuf, c = 0x30#8 ∨ c = 0x31#8) → exec .endPass s =
      .next { s with
        passOpen := false, inBuf := [], ovf := false
        enc := { encodePhase sc (bitsOf s.inBuf) s.enc with bits := [], lv := [] }
        responses := s.responses ++ [.ok {
          scheme := sc
          levels := encLevels sc (bitsOf s.inBuf)
          plot := layout s.params sc (bitsOf s.inBuf) (encLevels sc (bitsOf s.inBuf)) }] }) ∧
    (∀ t, exec .endPass s = .next t →
      exec .endPass t = .next { t with responses := t.responses ++ [.err .sequence] }) ∧
    (∀ sc, s.passOpen = true → decodeScheme s.sel = some sc → s.ovf = false → s.inBuf = [] →
      ∃ t r, exec .endPass s = .next t ∧ t.responses = s.responses ++ [.ok r] ∧
        r.levels = [] ∧ r.plot.path = [] ∧ r.plot.boxes = []) ∧
    (s.passOpen = true → s.sel = 0b001#3 → s.ovf = false → s.inBuf = [0x31#8, 0x30#8, 0x31#8, 0x31#8] →
      ∃ t r, exec .endPass s = .next t ∧ t.responses = s.responses ++ [.ok r] ∧ r.levels = [.high, .high, .low, .high])

/-- R137, R133: the encode phase of a successful END is its symbol reads and transitions, performed in order: the levels of the
response and the registers after END are what they leave. -/
def Obligations.EndRunsDataPath : Prop :=
  ∀ (s : State) (sc : Scheme), s.passOpen = true → decodeScheme s.sel = some sc → s.ovf = false →
    (∀ c ∈ s.inBuf, c = 0x30#8 ∨ c = 0x31#8) →
    ∃ u t plot,
      execSeq ((bitsOf s.inBuf).map symbolInstr ++ (bitsOf s.inBuf).map (transitionInstr sc))
        { s with enc := { s.enc with nrziLevel := false, amiPol := true, ptPol := true, dmPrev := true, bits := [], lv := [] } }
        = .next u ∧
      exec .endPass s = .next t ∧
      u.enc.bits = bitsOf s.inBuf ∧
      t.responses = s.responses ++ [.ok { scheme := sc, levels := u.enc.lv, plot := plot }] ∧
      ∀ r, t.enc.reg r = u.enc.reg r

/-- R182: an invalid symbol fails the pass under every one of the six schemes; no transition has run and nothing is returned. -/
def Obligations.InvalidSymbolEveryScheme : Prop :=
  ∀ (s : State) (sc : Scheme), s.passOpen = true → s.sel = schemeCode sc → s.ovf = false →
    valid s.inBuf = false →
    ∃ t, exec .endPass s = .next t ∧ t.responses = s.responses ++ [.err .invalidSymbol] ∧ t.enc = s.enc

/-- R181: ERR_CAPACITY is returned by a SYM to a full buffer and by an END after an overflow, by no other command, and never without
a bound. The last clause holds of the states that meet the invariant. -/
def Obligations.CapacityRaisedExactly : Prop :=
  ∀ (s : State) (w : CommandWord) (rest : List PortEvent), s.port = .command w :: rest →
    ∃ t, step s = .next t ∧
      (t.responses = s.responses ++ [.err .capacity] ↔
        s.passOpen = true ∧
        ((∃ d, decode (.cmd w) = .instr (.sym d) ∧ s.params.maxBits = some s.inBuf.length) ∨
         (decode (.cmd w) = .instr .endPass ∧ s.ovf = true ∧ (decodeScheme s.sel).isSome = true))) ∧
      ((∃ d, decode (.cmd w) = .instr (.sym d)) → t.responses = s.responses ++ [.err .capacity] →
        t.inBuf = s.inBuf ∧ t.ovf = true) ∧
      (s.Inv → s.params.maxBits = none → t.responses ≠ s.responses ++ [.err .capacity])

/-- R208: the capacity error is sticky within a pass: after a SYM that found IN full, any further SYMs and the END of the pass end in
ERR_CAPACITY or ERR_RESERVED_SCHEME. -/
def Obligations.CapacityIsSticky : Prop :=
  ∀ (s : State) (d : Byte) (ds : List Byte), s.passOpen = true → s.params.maxBits = some s.inBuf.length →
    ∃ t, execSeq (.sym d :: ds.map .sym ++ [.endPass]) s = .next t ∧
      (t.responses.getLast? = some (.err .capacity) ∨ t.responses.getLast? = some (.err .reservedScheme))

/-- R184: ERR_SEQUENCE is returned by SYM and END exactly when no pass is open, changes no state, and is never returned by START. -/
def Obligations.SequenceErrorExactly : Prop :=
  (∀ (s : State) (d : Byte), s.passOpen = false →
    exec (.sym d) s = .next { s with responses := s.responses ++ [.err .sequence] } ∧
    exec .endPass s = .next { s with responses := s.responses ++ [.err .sequence] }) ∧
  (∀ (s : State) (w : CommandWord) (rest : List PortEvent), s.port = .command w :: rest →
    ∃ t, step s = .next t ∧
      (t.responses = s.responses ++ [.err .sequence] ↔
        s.passOpen = false ∧ ((∃ d, decode (.cmd w) = .instr (.sym d)) ∨ decode (.cmd w) = .instr .endPass)))

/-- R188: errors are precise: what a command that returns an error leaves changed. -/
def Obligations.ErrorsArePrecise : Prop :=
  ∀ (s : State) (w : CommandWord) (rest : List PortEvent) (e : ErrorCode), s.port = .command w :: rest →
    ∃ t, step s = .next t ∧ (t.responses = s.responses ++ [.err e] →
      ((e = .sequence ∨ e = .reservedCommand) → t = { s with port := rest, responses := t.responses }) ∧
      ((∃ d, decode (.cmd w) = .instr (.sym d)) → e = .capacity →
        t = { s with port := rest, responses := t.responses, ovf := true }) ∧
      (decode (.cmd w) = .instr .endPass → e ≠ .sequence →
        t = { s with port := rest, responses := t.responses, passOpen := false, inBuf := [], ovf := false }))

/-- R142: the RESET event: what it writes, no response, nothing else but SEL and the four encoder registers (left unspecified: any
other values there, and in the rest of the encoder unit, lead to the same responses ever after). -/
def Obligations.ResetEvent : Prop :=
  ∀ (s : State) (rest : List PortEvent), s.port = .reset :: rest →
    ∃ t, step s = .next t ∧ t.passOpen = false ∧ t.inBuf = [] ∧ t.ovf = false ∧ t.responses = s.responses ∧
      t.params = s.params ∧ t.port = rest ∧
      ∀ (sel : SelCode) (e : Encoder) (n : Nat), ∃ u u', run n t = .next u ∧ run n { t with sel := sel, enc := e } = .next u' ∧
        u.responses = u'.responses

/-- R200: what power-on leaves, whatever the parameters, and what a RESET event leaves in PASS_OPEN, IN, K and OVF. Of SEL and the
encoder registers, unspecified at power-on, only this is said: other values there lead to the same responses to whatever is issued
(for RESET, `ResetEvent` says so). That a step of the powered-on block with nothing issued changes nothing is the model's choice
(log 2). -/
def Obligations.PowerOnState : Prop :=
  (∀ p : Params, (State.powerOn p).passOpen = false ∧ (State.powerOn p).inBuf = [] ∧ (State.powerOn p).inputPos = 0 ∧
    (State.powerOn p).ovf = false ∧ step (State.powerOn p) = .next (State.powerOn p) ∧
    ∀ (sel : SelCode) (e : Encoder) (es : List PortEvent) (n : Nat), ∃ u u', run n ((State.powerOn p).issue es) = .next u ∧
      run n (State.issue { State.powerOn p with sel := sel, enc := e } es) = .next u' ∧ u.responses = u'.responses) ∧
  ∀ (s : State) (rest : List PortEvent), s.port = .reset :: rest →
    ∃ t, step s = .next t ∧ t.passOpen = false ∧ t.inBuf = [] ∧ t.inputPos = 0 ∧ t.ovf = false

/-- R143: a step runs the decoded instruction, after the block has taken the word from its port; a reserved word gets its error; every
word has an outcome, a next state. That issued words wait in a queue is the model's choice (log 2). -/
def Obligations.StepRunsDecoded : Prop :=
  (∀ (s : State) (w : CommandWord) (rest : List PortEvent) (i : Instr), s.port = .command w :: rest →
    decode (.cmd w) = .instr i → step s = exec i { s with port := rest }) ∧
  (∀ (s : State) (w : CommandWord) (rest : List PortEvent) (why : Reject), s.port = .command w :: rest →
    decode (.cmd w) = .reserved why →
    step s = .next { s with port := rest, responses := s.responses ++ [.err .reservedCommand] }) ∧
  (∀ (s : State) (w : CommandWord) (rest : List PortEvent), s.port = .command w :: rest → ∃ t, step s = .next t)

/-- R143, R188: from every state and for every instruction there is a next state, no fault and no refusal. With nothing issued the
block waits; that such a step changes nothing is the model's choice (log 2). -/
def Obligations.StepAlwaysAnswers : Prop :=
  (∀ s : State, ∃ t, step s = .next t) ∧ (∀ (i : Instr) (s : State), ∃ t, exec i s = .next t) ∧
  ∀ s : State, s.port = [] → step s = .next s

/-- R24: the input position K. The clauses about END and RESET are about states that meet the invariant. -/
def Obligations.InputPosition : Prop :=
  (∀ p, (State.powerOn p).inputPos = 0) ∧
  (∀ (s : State) (sss : SelCode), ∃ t, exec (.start sss) s = .next t ∧ t.inputPos = 0) ∧
  (∀ (s : State) (d : Byte), s.passOpen = true → s.params.maxBits ≠ some s.inputPos →
    ∃ t, exec (.sym d) s = .next t ∧ t.inputPos = s.inputPos + 1 ∧ t.memRead s.inputPos = some d ∧
      ∀ k, k < s.inputPos → t.memRead k = s.memRead k) ∧
  (∀ (s : State) (d : Byte), s.passOpen = true → s.params.maxBits = some s.inputPos →
    ∃ t, exec (.sym d) s = .next t ∧ t.inBuf = s.inBuf ∧ t.ovf = true) ∧
  (∀ s : State, s.Inv → ∃ t, exec .endPass s = .next t ∧ t.inputPos = 0) ∧
  (∀ (s : State) (rest : List PortEvent), s.port = .reset :: rest → ∃ t, step s = .next t ∧ t.inputPos = 0)

/-- R33, the column "written by", for a step on a command word: a register that the word's command is not named for is unchanged; and of
every step: no parameter changes (R32), at most one response joins those returned, the port loses its oldest event; RESET leaves LV and B. That the parameters,
the responses, the port, LV and B stand in State is the model's choice (log 2, log 3, log 4, log 9), and so is that RESET leaves LV
and B (log 8). -/
def Obligations.WhoWritesWhat : Prop :=
  (∀ s t : State, step s = .next t →
    t.params = s.params ∧ (∃ rs, t.responses = s.responses ++ rs ∧ rs.length ≤ 1) ∧ t.port = s.port.tail) ∧
  (∀ (s : State) (rest : List PortEvent), s.port = .reset :: rest →
    ∃ t, step s = .next t ∧ t.enc.lv = s.enc.lv ∧ t.enc.bits = s.enc.bits) ∧
  ∀ (s : State) (w : CommandWord) (rest : List PortEvent), s.port = .command w :: rest →
    ∃ t, step s = .next t ∧
      ((∀ sss, decode (.cmd w) ≠ .instr (.start sss)) → t.sel = s.sel) ∧
      (decode (.cmd w) ≠ .instr .endPass → t.enc = s.enc) ∧
      ((∃ d, decode (.cmd w) = .instr (.sym d)) → t.passOpen = s.passOpen) ∧
      ((∃ why, decode (.cmd w) = .reserved why) →
        t.passOpen = s.passOpen ∧ t.inBuf = s.inBuf ∧ t.ovf = s.ovf) ∧
      (decode (.cmd w) = .instr .endPass → s.passOpen = true → t.passOpen = false ∧ t.inBuf = [] ∧ t.ovf = false) ∧
      (∀ sss, decode (.cmd w) = .instr (.start sss) → t.sel = sss)

/-! ## Whole machine -/

/-- Every step keeps the invariant (R6, R24, R26, R33, R42, R201). -/
def Obligations.EveryStepKeepsInvariant : Prop :=
  ∀ s t : State, s.Inv → step s = .next t → t.Inv

/-- The invariant holds at power-on with every admissible parameter, and at the model's reset (log 5). -/
def Obligations.PowerOnMeetsInvariant : Prop :=
  (∀ p : Params, p.wf = true → (State.powerOn p).Inv) ∧ State.reset.Inv

/-- R150: from any state, the commands START, SYM..., END of a pass compute PASS. -/
def Obligations.CommandsComputePass : Prop :=
  ∀ (s : State) (sel : SelCode) (c : List Byte) (rest : List PortEvent), s.port = passEvents sel c ++ rest →
    ∃ t, run (c.length + 2) s = .next t ∧
      t.responses = s.responses ++ [.ack] ++ symResponses s.params c.length ++ [passResponse s.params sel c] ∧
      t.passOpen = false ∧ t.inBuf = [] ∧ t.ovf = false ∧ t.port = rest

/-- R138: PASS by its cases, for every code and every byte sequence. -/
def Obligations.PassByCases : Prop :=
  ∀ (p : Params) (sel : SelCode) (c : List Byte),
    (decodeScheme sel = none → passResponse p sel c = .err .reservedScheme) ∧
    (∀ sc m, decodeScheme sel = some sc → p.maxBits = some m → m < c.length → passResponse p sel c = .err .capacity) ∧
    (∀ sc, decodeScheme sel = some sc → (∀ m, p.maxBits = some m → c.length ≤ m) →
      (∃ x ∈ c, x ≠ 0x30#8 ∧ x ≠ 0x31#8) → passResponse p sel c = .err .invalidSymbol) ∧
    (∀ sc, decodeScheme sel = some sc → (∀ m, p.maxBits = some m → c.length ≤ m) →
      (∀ x ∈ c, x = 0x30#8 ∨ x = 0x31#8) → passResponse p sel c = .ok {
        scheme := sc
        levels := encLevels sc (bitsOf c)
        plot := layout p sc (bitsOf c) (encLevels sc (bitsOf c)) })

/-- R207: the responses of a pass are the same from any two states of a block, whatever it did before; the same pass issued twice in a
row is answered twice alike. -/
def Obligations.RepeatedPassRepeats : Prop :=
  (∀ (s s' : State) (sel : SelCode) (c : List Byte) (rest rest' : List PortEvent), s.params = s'.params →
    s.port = passEvents sel c ++ rest → s'.port = passEvents sel c ++ rest' →
    ∃ t t' rs, run (c.length + 2) s = .next t ∧ run (c.length + 2) s' = .next t' ∧
      t.responses = s.responses ++ rs ∧ t'.responses = s'.responses ++ rs) ∧
  (∀ (s : State) (sel : SelCode) (c : List Byte) (rest : List PortEvent),
    s.port = passEvents sel c ++ (passEvents sel c ++ rest) →
    ∃ t rs, run (c.length + 2 + (c.length + 2)) s = .next t ∧
      rs.length = c.length + 2 ∧ t.responses = s.responses ++ rs ++ rs) ∧
  (∀ p : Params, (∀ m, p.maxBits = some m → 1 ≤ m) →
    ∃ x, passResponse p 0b010#3 [0x31#8] = .ok x ∧ x.levels = [.high]) ∧
  ∀ (s : Scheme) (e : Encoder), (encodePhase s [] e).amiPol = true ∧ (encodePhase s [] e).ptPol = true ∧
    (encodePhase s [] e).nrziLevel = false ∧ (encodePhase s [] e).dmPrev = true

/-- R200, R31, R151: what power-on and RESET leave unspecified is unobservable: two blocks that differ only there return the same
responses to the same events, however many. -/
def Obligations.UnspecifiedIsUnobservable : Prop :=
  ∀ (n : Nat) (s t : State), s.SameToHost t →
    ∃ s' t', run n s = .next s' ∧ run n t = .next t' ∧
      s'.responses = t'.responses

/-- R51: a command to one instance has no effect on another, and its own effect is that of a step. -/
def Obligations.InstancesShareNothing : Prop :=
  ∀ (k : Nat) (d : List State), ∃ d', stepInstance k d = .next d' ∧
    (∀ j, j ≠ k → d'[j]? = d[j]?) ∧ ∀ s, d[k]? = some s → ∃ t, step s = .next t ∧ d'[k]? = some t

/-! ## Layout -/

/-- R161, R162: the step path. -/
def Obligations.StepPathPoints : Prop :=
  ∀ (p : Params) (s : Scheme) (bits : List Bit) (lv : List Level) (last : Level), lv.getLast? = some last →
    (layout p s bits lv).path.length = lv.length + 1 ∧
    ∀ k, k ≤ lv.length → (layout p s bits lv).path[k]? = ((lv ++ [last])[k]?).map (PathPoint.mk k)

/-- R163: the hold convention and the vertical edges. -/
def Obligations.HoldConvention : Prop :=
  ∀ (p : Params) (s : Scheme) (bits : List Bit) (lv : List Level), lv ≠ [] →
    (∀ t : Rat, 0 ≤ t → t < lv.length → (layout p s bits lv).waveAt t = lv[⌊t⌋.toNat]?) ∧
    (layout p s bits lv).waveAt lv.length = lv.getLast? ∧
    (∀ k, (layout p s bits lv).edgeAt k = true ↔ 1 ≤ k ∧ k + 1 ≤ lv.length ∧ lv[k - 1]? ≠ lv[k]?) ∧
    (layout p s bits lv).edgeAt lv.length = false

/-- R164, R165: the bounds; the vertical ones are the parameters, within their constraints. -/
def Obligations.PlotBounds : Prop :=
  ∀ (p : Params) (s : Scheme) (bits : List Bit) (lv : List Level), p.wf = true →
    (layout p s bits lv).xMin = 0 ∧ (layout p s bits lv).xMax = lv.length ∧
    (layout p s bits lv).yMin = p.yMin ∧ (layout p s bits lv).yMax = p.yMax ∧
    (layout p s bits lv).labelY0 = p.labelY0 ∧ (layout p s bits lv).labelH = p.labelH ∧
    p.yMin ≤ 0 ∧ 1 ≤ p.labelY0 ∧ 0 < p.labelH ∧ p.labelY0 + p.labelH ≤ p.yMax

/-- R166, R167, R168: one box for every bit, its extent, centre and text; the boxes of a pass tile the time axis. -/
def Obligations.LabelBoxes : Prop :=
  ∀ (p : Params) (s : Scheme) (bits : List Bit),
    (∀ lv i b, bits[i]? = some b → (layout p s bits lv).boxes[i]? = some ({
      start := i * spb s, width := spb s, centre2 := 2 * i * spb s + spb s, text := if b then 0x31#8 else 0x30#8 } : LabelBox)) ∧
    (∀ lv, (layout p s bits lv).boxes.length = bits.length) ∧
    (∀ x, (layout p s bits (encLevels s bits)).boxes[0]? = some x → x.start = 0) ∧
    (∀ i x y, (layout p s bits (encLevels s bits)).boxes[i]? = some x →
      (layout p s bits (encLevels s bits)).boxes[i + 1]? = some y → y.start = x.start + x.width) ∧
    (∀ x, (layout p s bits (encLevels s bits)).boxes.getLast? = some x →
      x.start + x.width = (layout p s bits (encLevels s bits)).xMax)

/-- R169, R170: the plot of the empty input, and how many points and boxes the plot of a pass has. -/
def Obligations.EmptyPlotAndCounts : Prop :=
  (∀ (p : Params) (s : Scheme), layout p s [] (encLevels s []) =
    { path := [], boxes := [], xMin := 0, xMax := 0, yMin := p.yMin, yMax := p.yMax, labelY0 := p.labelY0,
      labelH := p.labelH }) ∧
  ∀ (p : Params) (s : Scheme) (bits : List Bit),
    (bits ≠ [] → (layout p s bits (encLevels s bits)).path.length = bits.length * spb s + 1) ∧
    (bits = [] → (layout p s bits (encLevels s bits)).path.length = 0) ∧
    (layout p s bits (encLevels s bits)).boxes.length = bits.length ∧
    (∀ b, (layout p s [b] (encLevels s [b])).path.length = (if s = .manchester ∨ s = .diffManchester then 3 else 2) ∧
      (layout p s [b] (encLevels s [b])).boxes.length = 1)

/-! ## Assembler -/

/-- R75: the text syntax: the words of every form, what is read as which form, comments, the case of scheme names. That hexadecimal
digits may have either case is the model's choice (log 16). -/
def Obligations.TextSyntax : Prop :=
  assemble (.startScheme .nrzL) = [0x4000#16] ∧ assemble (.startScheme .nrzI) = [0x4100#16] ∧
  assemble (.startScheme .bipolarAmi) = [0x4200#16] ∧ assemble (.startScheme .pseudoternary) = [0x4300#16] ∧
  assemble (.startScheme .manchester) = [0x4400#16] ∧ assemble (.startScheme .diffManchester) = [0x4500#16] ∧
  (∀ n, n < 8 → assemble (.startCode n) = [BitVec.ofNat 16 (0x4000 + (n <<< 8))]) ∧
  assemble (.symBit false) = [0x8030#16] ∧ assemble (.symBit true) = [0x8031#16] ∧
  (∀ n, n < 256 → assemble (.symByte n) = [BitVec.ofNat 16 (0x8000 + n)]) ∧ assemble .endPass = [0xC000#16] ∧
  (∀ n, n < 65536 → assemble (.word n) = [BitVec.ofNat 16 n]) ∧
  (∀ e ∈ [("NRZ-L", Scheme.nrzL), ("NRZ-I", .nrzI), ("AMI", .bipolarAmi), ("BIPOLAR-AMI", .bipolarAmi),
      ("PSEUDOTERNARY", .pseudoternary), ("MANCHESTER", .manchester), ("DIFF-MANCHESTER", .diffManchester),
      ("DIFFERENTIAL-MANCHESTER", .diffManchester)],
    ∀ name : List Char, name.map Char.toUpper = e.1.toList →
      parseLine ("START ".toList ++ name) = some (some (.startScheme e.2))) ∧
  (∀ n, n < 8 → parseLine ("START #".toList ++ [Char.ofNat (48 + n)]) = some (some (.startCode n))) ∧
  parseLine "SYM '0'".toList = some (some (.symBit false)) ∧ parseLine "SYM '1'".toList = some (some (.symBit true)) ∧
  (∀ (c d : Char) (m n : Nat), hexDigit c = some m → hexDigit d = some n →
    parseLine ("SYM 0x".toList ++ [c, d]) = some (some (.symByte (16 * m + n)))) ∧
  parseLine "END".toList = some (some .endPass) ∧
  (∀ (a b c d : Char) (k l m n : Nat), hexDigit a = some k → hexDigit b = some l → hexDigit c = some m → hexDigit d = some n →
    parseLine (".word 0x".toList ++ [a, b, c, d]) = some (some (.word (4096 * k + 256 * l + 16 * m + n)))) ∧
  (∀ n, n < 10 → hexDigit (Char.ofNat (48 + n)) = some n) ∧
  (∀ n, n < 6 → hexDigit (Char.ofNat (65 + n)) = some (10 + n) ∧ hexDigit (Char.ofNat (97 + n)) = some (10 + n)) ∧
  ∀ line comment : List Char, parseLine (line ++ ';' :: comment) = parseLine (line ++ [';']) ∧
    (';' ∉ line → parseLine (line ++ ';' :: comment) = parseLine line)

/-- R75: what the reader of text accepts is well-formed: codes 0 to 7, bytes, 16-bit words. -/
def Obligations.ParsedLinesWellFormed : Prop :=
  ∀ (line : List Char) (a : AsmLine), parseLine line = some (some a) → a.wf = true

/-- R76: PASS as text, the n + 2 words it expands to, START, the SYMs in string order, END, and the response to its END, which is
PASS(sel, bits). -/
def Obligations.PassPseudoInstruction : Prop :=
  ∀ (sc : Scheme) (bits : List Bit),
    (assemble (.pass sc bits)).length = bits.length + 2 ∧
    assemble (.pass sc bits) =
      assemble (.startScheme sc) ++ bits.flatMap (fun b => assemble (.symBit b)) ++ assemble .endPass ∧
    (∀ name : List Char, schemeOfName name = some sc →
      parseLine ("PASS ".toList ++ name ++ ", \"".toList ++ bits.map (fun b => if b then '1' else '0') ++ ['"']) =
        some (some (.pass sc bits))) ∧
    ∀ (s : State) (rest : List PortEvent), s.port = (assemble (.pass sc bits)).map .command ++ rest →
      ∃ t, run (bits.length + 2) s = .next t ∧
        t.responses.getLast? = some (passResponse s.params (schemeCode sc) (bits.map symbolOf))
end

