-- ==== Sys2Proof/Laws/State.lean ====
section
/-! SUPPORT. One small lemma per field of State and of the encoder unit per update. -/

namespace Sys2Proof.Machine

section
variable (s : State)

@[simp] theorem State.setPassOpen_params (v : Bit) : (s.setPassOpen v).params = s.params := rfl
@[simp] theorem State.setPassOpen_passOpen (v : Bit) : (s.setPassOpen v).passOpen = v := rfl
@[simp] theorem State.setPassOpen_sel (v : Bit) : (s.setPassOpen v).sel = s.sel := rfl
@[simp] theorem State.setPassOpen_ovf (v : Bit) : (s.setPassOpen v).ovf = s.ovf := rfl
@[simp] theorem State.setPassOpen_inBuf (v : Bit) : (s.setPassOpen v).inBuf = s.inBuf := rfl
@[simp] theorem State.setPassOpen_enc (v : Bit) : (s.setPassOpen v).enc = s.enc := rfl
@[simp] theorem State.setPassOpen_port (v : Bit) : (s.setPassOpen v).port = s.port := rfl
@[simp] theorem State.setPassOpen_responses (v : Bit) : (s.setPassOpen v).responses = s.responses := rfl
@[simp] theorem State.setPassOpen_fresh (v : Bit) : (s.setPassOpen v).fresh = s.fresh := rfl

@[simp] theorem State.setOvf_params (v : Bit) : (s.setOvf v).params = s.params := rfl
@[simp] theorem State.setOvf_passOpen (v : Bit) : (s.setOvf v).passOpen = s.passOpen := rfl
@[simp] theorem State.setOvf_sel (v : Bit) : (s.setOvf v).sel = s.sel := rfl
@[simp] theorem State.setOvf_ovf (v : Bit) : (s.setOvf v).ovf = v := rfl
@[simp] theorem State.setOvf_inBuf (v : Bit) : (s.setOvf v).inBuf = s.inBuf := rfl
@[simp] theorem State.setOvf_enc (v : Bit) : (s.setOvf v).enc = s.enc := rfl
@[simp] theorem State.setOvf_port (v : Bit) : (s.setOvf v).port = s.port := rfl
@[simp] theorem State.setOvf_responses (v : Bit) : (s.setOvf v).responses = s.responses := rfl
@[simp] theorem State.setOvf_fresh (v : Bit) : (s.setOvf v).fresh = s.fresh := rfl

@[simp] theorem State.setSel_params (v : SelCode) : (s.setSel v).params = s.params := rfl
@[simp] theorem State.setSel_passOpen (v : SelCode) : (s.setSel v).passOpen = s.passOpen := rfl
@[simp] theorem State.setSel_sel (v : SelCode) : (s.setSel v).sel = v := rfl
@[simp] theorem State.setSel_ovf (v : SelCode) : (s.setSel v).ovf = s.ovf := rfl
@[simp] theorem State.setSel_inBuf (v : SelCode) : (s.setSel v).inBuf = s.inBuf := rfl
@[simp] theorem State.setSel_enc (v : SelCode) : (s.setSel v).enc = s.enc := rfl
@[simp] theorem State.setSel_port (v : SelCode) : (s.setSel v).port = s.port := rfl
@[simp] theorem State.setSel_responses (v : SelCode) : (s.setSel v).responses = s.responses := rfl
@[simp] theorem State.setSel_fresh (v : SelCode) : (s.setSel v).fresh = s.fresh := rfl

@[simp] theorem State.setEnc_params (e : Encoder) : (s.setEnc e).params = s.params := rfl
@[simp] theorem State.setEnc_passOpen (e : Encoder) : (s.setEnc e).passOpen = s.passOpen := rfl
@[simp] theorem State.setEnc_sel (e : Encoder) : (s.setEnc e).sel = s.sel := rfl
@[simp] theorem State.setEnc_ovf (e : Encoder) : (s.setEnc e).ovf = s.ovf := rfl
@[simp] theorem State.setEnc_inBuf (e : Encoder) : (s.setEnc e).inBuf = s.inBuf := rfl
@[simp] theorem State.setEnc_enc (e : Encoder) : (s.setEnc e).enc = e := rfl
@[simp] theorem State.setEnc_port (e : Encoder) : (s.setEnc e).port = s.port := rfl
@[simp] theorem State.setEnc_responses (e : Encoder) : (s.setEnc e).responses = s.responses := rfl
@[simp] theorem State.setEnc_fresh (e : Encoder) : (s.setEnc e).fresh = s.fresh := rfl

@[simp] theorem State.clearIn_params : (s.clearIn).params = s.params := rfl
@[simp] theorem State.clearIn_passOpen : (s.clearIn).passOpen = s.passOpen := rfl
@[simp] theorem State.clearIn_sel : (s.clearIn).sel = s.sel := rfl
@[simp] theorem State.clearIn_ovf : (s.clearIn).ovf = s.ovf := rfl
@[simp] theorem State.clearIn_inBuf : (s.clearIn).inBuf = [] := rfl
@[simp] theorem State.clearIn_enc : (s.clearIn).enc = s.enc := rfl
@[simp] theorem State.clearIn_port : (s.clearIn).port = s.port := rfl
@[simp] theorem State.clearIn_responses : (s.clearIn).responses = s.responses := rfl
@[simp] theorem State.clearIn_fresh : (s.clearIn).fresh = s.fresh := rfl

@[simp] theorem State.memWrite_params (k : Nat) (c : Byte) : (s.memWrite k c).params = s.params := rfl
@[simp] theorem State.memWrite_passOpen (k : Nat) (c : Byte) : (s.memWrite k c).passOpen = s.passOpen := rfl
@[simp] theorem State.memWrite_sel (k : Nat) (c : Byte) : (s.memWrite k c).sel = s.sel := rfl
@[simp] theorem State.memWrite_ovf (k : Nat) (c : Byte) : (s.memWrite k c).ovf = s.ovf := rfl
@[simp] theorem State.memWrite_inBuf (k : Nat) (c : Byte) : (s.memWrite k c).inBuf = s.inBuf.take k ++ c :: s.inBuf.drop (k + 1) := rfl
@[simp] theorem State.memWrite_enc (k : Nat) (c : Byte) : (s.memWrite k c).enc = s.enc := rfl
@[simp] theorem State.memWrite_port (k : Nat) (c : Byte) : (s.memWrite k c).port = s.port := rfl
@[simp] theorem State.memWrite_responses (k : Nat) (c : Byte) : (s.memWrite k c).responses = s.responses := rfl
@[simp] theorem State.memWrite_fresh (k : Nat) (c : Byte) : (s.memWrite k c).fresh = s.fresh := rfl

@[simp] theorem State.nextFresh_params : (s.nextFresh).params = s.params := rfl
@[simp] theorem State.nextFresh_passOpen : (s.nextFresh).passOpen = s.passOpen := rfl
@[simp] theorem State.nextFresh_sel : (s.nextFresh).sel = s.sel := rfl
@[simp] theorem State.nextFresh_ovf : (s.nextFresh).ovf = s.ovf := rfl
@[simp] theorem State.nextFresh_inBuf : (s.nextFresh).inBuf = s.inBuf := rfl
@[simp] theorem State.nextFresh_enc : (s.nextFresh).enc = s.enc := rfl
@[simp] theorem State.nextFresh_port : (s.nextFresh).port = s.port := rfl
@[simp] theorem State.nextFresh_responses : (s.nextFresh).responses = s.responses := rfl
@[simp] theorem State.nextFresh_fresh : (s.nextFresh).fresh = s.fresh + 1 := rfl

@[simp] theorem State.respond_params (r : Response) : (s.respond r).params = s.params := rfl
@[simp] theorem State.respond_passOpen (r : Response) : (s.respond r).passOpen = s.passOpen := rfl
@[simp] theorem State.respond_sel (r : Response) : (s.respond r).sel = s.sel := rfl
@[simp] theorem State.respond_ovf (r : Response) : (s.respond r).ovf = s.ovf := rfl
@[simp] theorem State.respond_inBuf (r : Response) : (s.respond r).inBuf = s.inBuf := rfl
@[simp] theorem State.respond_enc (r : Response) : (s.respond r).enc = s.enc := rfl
@[simp] theorem State.respond_port (r : Response) : (s.respond r).port = s.port := rfl
@[simp] theorem State.respond_responses (r : Response) : (s.respond r).responses = s.responses ++ [r] := rfl
@[simp] theorem State.respond_fresh (r : Response) : (s.respond r).fresh = s.fresh := rfl

@[simp] theorem State.raise_params (x : ErrorCode) : (s.raise x).params = s.params := rfl
@[simp] theorem State.raise_passOpen (x : ErrorCode) : (s.raise x).passOpen = s.passOpen := rfl
@[simp] theorem State.raise_sel (x : ErrorCode) : (s.raise x).sel = s.sel := rfl
@[simp] theorem State.raise_ovf (x : ErrorCode) : (s.raise x).ovf = s.ovf := rfl
@[simp] theorem State.raise_inBuf (x : ErrorCode) : (s.raise x).inBuf = s.inBuf := rfl
@[simp] theorem State.raise_enc (x : ErrorCode) : (s.raise x).enc = s.enc := rfl
@[simp] theorem State.raise_port (x : ErrorCode) : (s.raise x).port = s.port := rfl
@[simp] theorem State.raise_responses (x : ErrorCode) : (s.raise x).responses = s.responses ++ [.err x] := rfl
@[simp] theorem State.raise_fresh (x : ErrorCode) : (s.raise x).fresh = s.fresh := rfl

@[simp] theorem State.issue_params (es : List PortEvent) : (s.issue es).params = s.params := rfl
@[simp] theorem State.issue_passOpen (es : List PortEvent) : (s.issue es).passOpen = s.passOpen := rfl
@[simp] theorem State.issue_sel (es : List PortEvent) : (s.issue es).sel = s.sel := rfl
@[simp] theorem State.issue_ovf (es : List PortEvent) : (s.issue es).ovf = s.ovf := rfl
@[simp] theorem State.issue_inBuf (es : List PortEvent) : (s.issue es).inBuf = s.inBuf := rfl
@[simp] theorem State.issue_enc (es : List PortEvent) : (s.issue es).enc = s.enc := rfl
@[simp] theorem State.issue_port (es : List PortEvent) : (s.issue es).port = s.port ++ es := rfl
@[simp] theorem State.issue_responses (es : List PortEvent) : (s.issue es).responses = s.responses := rfl
@[simp] theorem State.issue_fresh (es : List PortEvent) : (s.issue es).fresh = s.fresh := rfl

@[simp] theorem State.setPort_params (es : List PortEvent) : (s.setPort es).params = s.params := rfl
@[simp] theorem State.setPort_passOpen (es : List PortEvent) : (s.setPort es).passOpen = s.passOpen := rfl
@[simp] theorem State.setPort_sel (es : List PortEvent) : (s.setPort es).sel = s.sel := rfl
@[simp] theorem State.setPort_ovf (es : List PortEvent) : (s.setPort es).ovf = s.ovf := rfl
@[simp] theorem State.setPort_inBuf (es : List PortEvent) : (s.setPort es).inBuf = s.inBuf := rfl
@[simp] theorem State.setPort_enc (es : List PortEvent) : (s.setPort es).enc = s.enc := rfl
@[simp] theorem State.setPort_port (es : List PortEvent) : (s.setPort es).port = es := rfl
@[simp] theorem State.setPort_responses (es : List PortEvent) : (s.setPort es).responses = s.responses := rfl
@[simp] theorem State.setPort_fresh (es : List PortEvent) : (s.setPort es).fresh = s.fresh := rfl

@[simp] theorem State.closePass_params : (s.closePass).params = s.params := rfl
@[simp] theorem State.closePass_passOpen : (s.closePass).passOpen = false := rfl
@[simp] theorem State.closePass_sel : (s.closePass).sel = s.sel := rfl
@[simp] theorem State.closePass_ovf : (s.closePass).ovf = false := rfl
@[simp] theorem State.closePass_inBuf : (s.closePass).inBuf = [] := rfl
@[simp] theorem State.closePass_enc : (s.closePass).enc = s.enc := rfl
@[simp] theorem State.closePass_port : (s.closePass).port = s.port := rfl
@[simp] theorem State.closePass_responses : (s.closePass).responses = s.responses := rfl
@[simp] theorem State.closePass_fresh : (s.closePass).fresh = s.fresh := rfl

end

section
variable (e : Encoder)

@[simp] theorem Encoder.emit_nrziLevel (h : Level) : (e.emit h).nrziLevel = e.nrziLevel := rfl
@[simp] theorem Encoder.emit_amiPol (h : Level) : (e.emit h).amiPol = e.amiPol := rfl
@[simp] theorem Encoder.emit_ptPol (h : Level) : (e.emit h).ptPol = e.ptPol := rfl
@[simp] theorem Encoder.emit_dmPrev (h : Level) : (e.emit h).dmPrev = e.dmPrev := rfl
@[simp] theorem Encoder.emit_bits (h : Level) : (e.emit h).bits = e.bits := rfl
@[simp] theorem Encoder.emit_lv (h : Level) : (e.emit h).lv = e.lv ++ [h] := rfl

@[simp] theorem Encoder.loadBit_nrziLevel (b : Bit) : (e.loadBit b).nrziLevel = e.nrziLevel := rfl
@[simp] theorem Encoder.loadBit_amiPol (b : Bit) : (e.loadBit b).amiPol = e.amiPol := rfl
@[simp] theorem Encoder.loadBit_ptPol (b : Bit) : (e.loadBit b).ptPol = e.ptPol := rfl
@[simp] theorem Encoder.loadBit_dmPrev (b : Bit) : (e.loadBit b).dmPrev = e.dmPrev := rfl
@[simp] theorem Encoder.loadBit_bits (b : Bit) : (e.loadBit b).bits = e.bits ++ [b] := rfl
@[simp] theorem Encoder.loadBit_lv (b : Bit) : (e.loadBit b).lv = e.lv := rfl

@[simp] theorem Encoder.discard_nrziLevel : (e.discard).nrziLevel = e.nrziLevel := rfl
@[simp] theorem Encoder.discard_amiPol : (e.discard).amiPol = e.amiPol := rfl
@[simp] theorem Encoder.discard_ptPol : (e.discard).ptPol = e.ptPol := rfl
@[simp] theorem Encoder.discard_dmPrev : (e.discard).dmPrev = e.dmPrev := rfl
@[simp] theorem Encoder.discard_bits : (e.discard).bits = [] := rfl
@[simp] theorem Encoder.discard_lv : (e.discard).lv = [] := rfl

@[simp] theorem Encoder.init_nrziLevel : (e.init).nrziLevel = false := rfl
@[simp] theorem Encoder.init_amiPol : (e.init).amiPol = true := rfl
@[simp] theorem Encoder.init_ptPol : (e.init).ptPol = true := rfl
@[simp] theorem Encoder.init_dmPrev : (e.init).dmPrev = true := rfl
@[simp] theorem Encoder.init_bits : (e.init).bits = e.bits := rfl
@[simp] theorem Encoder.init_lv : (e.init).lv = [] := rfl

@[simp] theorem Encoder.unspecified_nrziLevel (n : Nat) : (e.unspecified n).nrziLevel = Config.freeNrziLevel n := rfl
@[simp] theorem Encoder.unspecified_amiPol (n : Nat) : (e.unspecified n).amiPol = Config.freeAmiPol n := rfl
@[simp] theorem Encoder.unspecified_ptPol (n : Nat) : (e.unspecified n).ptPol = Config.freePtPol n := rfl
@[simp] theorem Encoder.unspecified_dmPrev (n : Nat) : (e.unspecified n).dmPrev = Config.freeDmPrev n := rfl
@[simp] theorem Encoder.unspecified_bits (n : Nat) : (e.unspecified n).bits = e.bits := rfl
@[simp] theorem Encoder.unspecified_lv (n : Nat) : (e.unspecified n).lv = e.lv := rfl

end

end Sys2Proof.Machine
end

