-- ==== Sys2Proof/Laws/Ops.lean ====
section
/-! SUPPORT. What the shared operations do: the input buffer, capacity, symbols, levels. -/

namespace Sys2Proof

@[simp] theorem bitval_symbolOf (b : Bit) : bitval (symbolOf b) = some b := by cases b <;> rfl

theorem bitval_eq_some {c : Byte} {b : Bit} (h : bitval c = some b) : c = symbolOf b := by
  unfold bitval at h
  split at h
  · cases h; assumption
  · split at h
    · cases h; assumption
    · cases h

@[simp] theorem bitsOf_nil : bitsOf [] = [] := rfl

@[simp] theorem valid_nil : valid [] = true := rfl

theorem valid_cons {c : Byte} {cs : List Byte} : valid (c :: cs) = true ↔ (∃ b, bitval c = some b) ∧ valid cs = true := by
  simp [valid, isSymbol, Option.isSome_iff_exists]

theorem bitsOf_cons {c : Byte} {b : Bit} (h : bitval c = some b) (cs : List Byte) : bitsOf (c :: cs) = b :: bitsOf cs := by
  simp [bitsOf, h]

theorem bitsOf_append (c d : List Byte) : bitsOf (c ++ d) = bitsOf c ++ bitsOf d := by
  simp [bitsOf]

@[simp] theorem bitsOf_symbols (bits : List Bit) : bitsOf (bits.map symbolOf) = bits := by
  induction bits with
  | nil => rfl
  | cons b bs ih => rw [List.map_cons, bitsOf_cons (bitval_symbolOf b), ih]

@[simp] theorem valid_symbols (bits : List Bit) : valid (bits.map symbolOf) = true := by
  induction bits with
  | nil => rfl
  | cons b bs ih => exact valid_cons.2 ⟨⟨b, bitval_symbolOf b⟩, ih⟩

theorem Params.atCapacity_iff {p : Params} {n : Nat} : p.atCapacity n = true ↔ p.maxBits = some n := by
  unfold Params.atCapacity
  cases p.maxBits with
  | none => simp
  | some m => exact beq_iff_eq.trans (eq_comm.trans (Option.some_inj).symm)

theorem Params.exceeds_iff {p : Params} {n : Nat} : p.exceeds n = true ↔ ∃ m, p.maxBits = some m ∧ m < n := by
  unfold Params.exceeds
  split <;> simp_all

/-- Storing one more symbol in a buffer that fits and is not full gives a buffer that fits. -/
theorem Params.exceeds_succ {p : Params} {n : Nat} (h : p.exceeds n = false) (hc : p.atCapacity n = false) :
    p.exceeds (n + 1) = false := by
  unfold Params.exceeds Params.atCapacity at *
  split <;> simp_all
  omega

namespace Machine

/-- R41: a write at the end of IN appends. -/
theorem State.memWrite_end (s : State) (c : Byte) : (s.memWrite s.inputPos c).inBuf = s.inBuf ++ [c] := by
  simp [State.inputPos]

/-- R41: what was just stored reads back. -/
theorem State.memRead_memWrite_end (s : State) (c : Byte) : (s.memWrite s.inputPos c).memRead s.inputPos = some c := by
  rw [State.memRead, State.memWrite_end]
  simp [State.inputPos]

/-- R41: nothing rewrites a stored element. -/
theorem State.memRead_memWrite_ne (s : State) (c : Byte) {k : Nat} (h : k ≠ s.inputPos) :
    (s.memWrite s.inputPos c).memRead k = s.memRead k := by
  rw [State.memRead, State.memWrite_end, State.memRead, List.getElem?_append]
  split
  · rfl
  · rename_i hk
    have hlt : s.inBuf.length < k := Nat.lt_of_le_of_ne (Nat.not_lt.1 hk) (Ne.symm h)
    rw [List.getElem?_eq_none (by simp; omega), List.getElem?_eq_none (Nat.not_lt.1 hk)]

/-- An open pass that is not full keeps `len(IN) ≤ MAX_BITS` when it stores a symbol (R33). -/
theorem State.memWrite_fits (s : State) (c : Byte) (h : s.params.exceeds s.inBuf.length = false)
    (hc : s.params.atCapacity s.inputPos = false) :
    (s.memWrite s.inputPos c).params.exceeds (s.memWrite s.inputPos c).inBuf.length = false := by
  rw [State.memWrite_end, List.length_append]
  exact Params.exceeds_succ h hc

end Machine
end Sys2Proof
end

