-- ==== Sys2Proof/Laws/Encoder.lean ====
section
/-! SUPPORT. What a transition, a symbol read and the layout lists do. -/

namespace Sys2Proof.Machine

/-- A transition appends what its scheme emits for the bit and the routed register, and leaves B alone. -/
theorem transition_emits (s : Scheme) (b : Bit) (e : Encoder) :
    ∃ out, out.length = spb s ∧ (transition s b e).lv = e.lv ++ out ∧ (transition s b e).bits = e.bits := by
  cases s <;> cases b
  case diffManchester.false | diffManchester.true =>
    cases h : e.dmPrev <;> simp [transition, tDm, h, spb]
  all_goals simp [transition, tNrzL, tNrzI, tAmi, tPt, tMan, spb]

/-- A run of transitions leaves B alone. -/
theorem foldl_transition_bits (s : Scheme) (bits : List Bit) (e : Encoder) :
    (bits.foldl (fun e b => transition s b e) e).bits = e.bits := by
  induction bits generalizing e with
  | nil => rfl
  | cons b bs ih =>
    obtain ⟨_, _, _, hb⟩ := transition_emits s b e
    rw [List.foldl_cons, ih, hb]

@[simp] theorem encodePhase_bits (s : Scheme) (bits : List Bit) (e : Encoder) : (encodePhase s bits e).bits = e.bits :=
  foldl_transition_bits s bits e.init

/-- A transition does not read B: what stands there makes no difference to anything else. -/
theorem transition_with_bits (s : Scheme) (b : Bit) (e : Encoder) (x : List Bit) :
    transition s b { e with bits := x } = { transition s b e with bits := x } := by
  cases s <;> cases b
  case diffManchester.false | diffManchester.true =>
    cases h : e.dmPrev <;> simp [transition, tDm, h, Encoder.emit]
  all_goals simp [transition, tNrzL, tNrzI, tAmi, tPt, tMan, Encoder.emit]

/-- Symbol reads append the bits of the valid bytes to B and leave the rest of the unit alone. -/
theorem foldl_loadByte (c : List Byte) (e : Encoder) :
    c.foldl loadByte e = { e with bits := e.bits ++ bitsOf c } := by
  induction c generalizing e with
  | nil => simp
  | cons x xs ih =>
    rw [List.foldl_cons, ih]
    cases h : bitval x with
    | none => simp [loadByte, h, bitsOf]
    | some b => simp [loadByte, h, bitsOf_cons h, Encoder.loadBit]

/-- R137: `B <- bits(IN)`. -/
theorem loadBits_eq (c : List Byte) (e : Encoder) : loadBits c e = { e with bits := bitsOf c } := by
  simp [loadBits, foldl_loadByte]

@[simp] theorem loadBits_bits (c : List Byte) (e : Encoder) : (loadBits c e).bits = bitsOf c := by
  rw [loadBits_eq]

@[simp] theorem extend_nil : extend [] = [] := rfl

theorem extend_length {lv : List Level} (h : lv ≠ []) : (extend lv).length = lv.length + 1 := by
  simp [extend, List.getLast?_eq_some_getLast h]

@[simp] theorem stepPath_length (lv : List Level) : (stepPath lv).length = (extend lv).length := by
  simp [stepPath]

theorem stepPath_getElem? (lv : List Level) (k : Nat) :
    (stepPath lv)[k]? = ((extend lv)[k]?).map fun h => ⟨k, h⟩ := by
  simp [stepPath, List.getElem?_zipIdx]
  cases (extend lv)[k]? <;> simp

@[simp] theorem labelBoxes_length (k : Nat) (bits : List Bit) : (labelBoxes k bits).length = bits.length := by
  simp [labelBoxes]

theorem labelBoxes_getElem? (k : Nat) (bits : List Bit) (i : Nat) :
    (labelBoxes k bits)[i]? = (bits[i]?).map (labelBox k i) := by
  simp [labelBoxes, List.getElem?_zipIdx]
  cases bits[i]? <;> simp

end Sys2Proof.Machine
end

