-- ==== Sys2Proof/Laws/Commands.lean ====
section
/-! SUPPORT. What a command and a step can do, said once each. -/

namespace Sys2Proof.Machine

/-- Everything `COMPUTE` can answer. -/
theorem compute_cases (s : State) :
    (decodeScheme s.sel = none ∧ compute s = (.err .reservedScheme, s.enc)) ∨
    ∃ sc, decodeScheme s.sel = some sc ∧
      ((s.ovf = true ∧ compute s = (.err .capacity, s.enc)) ∨
       (s.ovf = false ∧ valid s.inBuf = false ∧ compute s = (.err .invalidSymbol, s.enc)) ∨
       (s.ovf = false ∧ valid s.inBuf = true ∧
        compute s =
          (.ok { scheme := sc, levels := (encodePhase sc (bitsOf s.inBuf) (loadBits s.inBuf s.enc)).lv,
                 plot := layout s.params sc (bitsOf s.inBuf)
                   (encodePhase sc (bitsOf s.inBuf) (loadBits s.inBuf s.enc)).lv },
           (encodePhase sc (bitsOf s.inBuf) (loadBits s.inBuf s.enc)).discard))) := by
  cases hs : decodeScheme s.sel with
  | none => exact .inl ⟨rfl, by simp [compute, hs]⟩
  | some sc =>
    refine .inr ⟨sc, rfl, ?_⟩
    cases ho : s.ovf with
    | true => exact .inl ⟨rfl, by simp [compute, hs, ho]⟩
    | false =>
      cases hv : valid s.inBuf with
      | false => exact .inr (.inl ⟨rfl, rfl, by simp [compute, hs, ho, hv]⟩)
      | true => exact .inr (.inr ⟨rfl, rfl, by simp [compute, hs, ho, hv]⟩)

/-- Outside an encode phase, END leaves LV and B empty. -/
theorem compute_work_empty {s : State} (hl : s.enc.lv = []) (hb : s.enc.bits = []) :
    (compute s).2.lv = [] ∧ (compute s).2.bits = [] := by
  obtain ⟨_, h⟩ | ⟨_, _, ⟨_, h⟩ | ⟨_, _, h⟩ | ⟨_, _, h⟩⟩ := compute_cases s <;> simp [h, hl, hb]

/-- Everything SYM can do. -/
theorem execSym_cases (d : Byte) (s : State) :
    (s.passOpen = false ∧ execSym d s = .next (s.raise .sequence)) ∨
    (s.passOpen = true ∧ s.params.atCapacity s.inputPos = true ∧ execSym d s = .next ((s.setOvf true).raise .capacity)) ∨
    (s.passOpen = true ∧ s.params.atCapacity s.inputPos = false ∧
      execSym d s = .next ((s.memWrite s.inputPos d).respond .ack)) := by
  cases ho : s.passOpen with
  | false => exact .inl ⟨rfl, by simp [execSym, ho]⟩
  | true =>
    cases hc : s.params.atCapacity s.inputPos with
    | true => exact .inr (.inl ⟨rfl, rfl, by simp [execSym, ho, hc]⟩)
    | false => exact .inr (.inr ⟨rfl, rfl, by simp [execSym, ho, hc]⟩)

/-- Everything END can do. -/
theorem execEnd_cases (s : State) :
    (s.passOpen = false ∧ execEnd s = .next (s.raise .sequence)) ∨
    (s.passOpen = true ∧ execEnd s = .next (((s.setEnc (compute s).2).closePass).respond (compute s).1)) := by
  cases ho : s.passOpen with
  | false => exact .inl ⟨rfl, by simp [execEnd, ho]⟩
  | true => exact .inr ⟨rfl, by simp [execEnd, ho]⟩

/-- A command word decodes to a command, never to a data-path operation. -/
theorem decodeCommand_cases (w : CommandWord) :
    (∃ sss, decodeCommand w = .instr (.start sss)) ∨ (∃ d, decodeCommand w = .instr (.sym d)) ∨
    decodeCommand w = .instr .endPass ∨ ∃ why, decodeCommand w = .reserved why := by
  unfold decodeCommand
  split
  · split <;> simp
  · split
    · split <;> simp
    · split
      · split <;> simp
      · simp

/-- Everything a step can do, apart from what the three commands do inside. -/
theorem step_cases (s : State) :
    (s.port = [] ∧ step s = .next s) ∨
    (∃ rest, s.port = .reset :: rest ∧ step s = resetEvent (s.setPort rest)) ∨
    (∃ w sss rest, s.port = .command w :: rest ∧ decodeCommand w = .instr (.start sss) ∧
      step s = execStart sss (s.setPort rest)) ∨
    (∃ w d rest, s.port = .command w :: rest ∧ decodeCommand w = .instr (.sym d) ∧ step s = execSym d (s.setPort rest)) ∨
    (∃ w rest, s.port = .command w :: rest ∧ decodeCommand w = .instr .endPass ∧ step s = execEnd (s.setPort rest)) ∨
    (∃ w why rest, s.port = .command w :: rest ∧ decodeCommand w = .reserved why ∧
      step s = reservedWord (s.setPort rest)) := by
  unfold step
  split
  · exact .inl ⟨‹_›, rfl⟩
  · exact .inr (.inl ⟨_, ‹_›, rfl⟩)
  · rename_i w rest hp
    obtain ⟨sss, h⟩ | ⟨d, h⟩ | h | ⟨why, h⟩ := decodeCommand_cases w
    · exact .inr (.inr (.inl ⟨w, sss, rest, hp, h, by simp [h, exec]⟩))
    · exact .inr (.inr (.inr (.inl ⟨w, d, rest, hp, h, by simp [h, exec]⟩)))
    · exact .inr (.inr (.inr (.inr (.inl ⟨w, rest, hp, h, by simp [h, exec]⟩))))
    · exact .inr (.inr (.inr (.inr (.inr ⟨w, why, rest, hp, h, by simp [h]⟩))))

end Sys2Proof.Machine
end

