-- ==== Sys2Proof/Laws/PerInstr.lean ====
section
/-! SUPPORT. Statements made for every instruction, one lemma per constructor. -/

namespace Sys2Proof.Laws.TableRow

/-- The encoded word of an instruction has the fixed bits of the instruction's row of spec/opcode_table.json, and of no other
row. -/
def Statement (i : Instr) : Prop :=
  (opcodeTable.map fun r => r.covers (encode i)) = (List.range opcodeTable.length).map fun k => k == rowIndex i

theorem start : ∀ sss, Statement (.start sss) := by unfold Statement; decide
theorem sym : ∀ d, Statement (.sym d) := by
  intro d
  have h : ∀ k : Fin 256, Statement (.sym (BitVec.ofFin k)) := by unfold Statement; decide +kernel
  exact h d.toFin
theorem endPass : Statement .endPass := by unfold Statement; decide
theorem nrzL : ∀ b, Statement (.nrzL b) := by unfold Statement; decide
theorem nrzI : ∀ b, Statement (.nrzI b) := by unfold Statement; decide
theorem ami : ∀ b, Statement (.ami b) := by unfold Statement; decide
theorem pseudoternary : ∀ b, Statement (.pseudoternary b) := by unfold Statement; decide
theorem manchester : ∀ b, Statement (.manchester b) := by unfold Statement; decide
theorem diffManchester : ∀ b, Statement (.diffManchester b) := by unfold Statement; decide
theorem symbol0 : Statement .symbol0 := by unfold Statement; decide
theorem symbol1 : Statement .symbol1 := by unfold Statement; decide

end Sys2Proof.Laws.TableRow
end

