-- ==== Sys2Proof/Tests/Slice0.lean ====
section
/-! SUPPORT. Tests, their expected results taken from the spec (95_test_vectors.md unless a test says otherwise), and witnesses that the
hypotheses of the statements can be met. -/

namespace Sys2Proof.Tests

open Sys2Proof Sys2Proof.Machine

/-! ## Helpers -/

/-- Parameters with `MAX_BITS = 2`, within R6. -/
def params2 : Params := { maxBits := some 2, yMin := 0, yMax := 3, labelY0 := 1, labelH := 1 }

/-- Parameters with `MAX_BITS = ∞`, within R6. -/
def paramsInf : Params := { params2 with maxBits := none }

/-- A pass under the code `c` with the bytes `cs` stored. -/
def openPass (p : Params) (c : SelCode) (cs : List Byte) : State :=
  { State.powerOn p with passOpen := true, sel := c, inBuf := cs }

/-- The last response of an outcome. -/
def answer : Outcome → Option Response
  | .next t => t.responses.getLast?
  | .fault _ => none
  | .refused _ => none

/-- The code of the last response of an outcome. -/
def answerCode (o : Outcome) : Option (BitVec 4) := (answer o).map Response.code

/-- The RESULT record of the last response of an outcome. -/
def answerResult (o : Outcome) : Option Result :=
  match answer o with
  | some (.ok r) => some r
  | _ => none

/-- A field of the next state of an outcome. -/
def nextField {α : Type} (f : State → α) : Outcome → Option α
  | .next t => some (f t)
  | .fault _ => none
  | .refused _ => none

/-! ## Well-formedness: an ill-formed term for each check -/

theorem test_wf_startCode_8 : (AsmLine.startCode 8).wf = false := by decide
theorem test_wf_symByte_256 : (AsmLine.symByte 256).wf = false := by decide
theorem test_wf_word_65536 : (AsmLine.word 65536).wf = false := by decide
theorem test_wf_params : params2.wf = true ∧ paramsInf.wf = true := by decide +kernel
theorem test_wf_maxBits_0 : ({ params2 with maxBits := some 0 } : Params).wf = false := by decide
theorem test_wf_yMin_above_0 : ({ params2 with yMin := 1 } : Params).wf = false := by decide
theorem test_wf_labelY0_below_1 : ({ params2 with labelY0 := 0 } : Params).wf = false := by decide
theorem test_wf_labelH_0 : ({ params2 with labelH := 0 } : Params).wf = false := by decide
theorem test_wf_yMax_too_low : ({ params2 with yMax := 1 } : Params).wf = false := by decide +kernel

/-! ## Decoding: words written out from R63 to R65, R67 and R69 -/

theorem test_decode_start : decode (.cmd 0b0100001100000000#16) = .instr (.start 0b011#3) := by decide
theorem test_decode_sym : decode (.cmd 0b1000000000110001#16) = .instr (.sym 0b00110001#8) := by decide
theorem test_decode_end : decode (.cmd 0b1100000000000000#16) = .instr .endPass := by decide
theorem test_decode_nrzL : decode (.sel 0b000#3 true) = .instr (.nrzL true) := by decide
theorem test_decode_nrzI : decode (.sel 0b001#3 true) = .instr (.nrzI true) := by decide
theorem test_decode_ami : decode (.sel 0b010#3 false) = .instr (.ami false) := by decide
theorem test_decode_pseudoternary : decode (.sel 0b011#3 false) = .instr (.pseudoternary false) := by decide
theorem test_decode_manchester : decode (.sel 0b100#3 true) = .instr (.manchester true) := by decide
theorem test_decode_diffManchester : decode (.sel 0b101#3 true) = .instr (.diffManchester true) := by decide
theorem test_decode_symbol0 : decode (.symbol 0b00110000#8) = .instr .symbol0 := by decide
theorem test_decode_symbol1 : decode (.symbol 0b00110001#8) = .instr .symbol1 := by decide

/-- Every row of the table by its own bits, the free bits 0. -/
theorem test_decodeTableWord_rows :
    [(16, 0x4000), (16, 0x8000), (16, 0xC000), (8, 0), (8, 1), (8, 2), (8, 3), (8, 4), (8, 5), (8, 0x30), (8, 0x31)].map
      (fun r => (decodeTableWord r.1 r.2).map rowIndex) = (List.range 11).map some := by decide

theorem test_decodeTableWord_rejects :
    [(16, 0x0000), (16, 0x4001), (16, 0xC001), (8, 6), (8, 7), (8, 0x32)].map (fun r => decodeTableWord r.1 r.2) =
      List.replicate 6 none := by decide

/-- The rows of one format do not overlap (R74). -/
theorem test_rows_disjoint : opcodeTable.Pairwise
    (fun a b => a.format = b.format → (a.pattern &&& (a.mask &&& b.mask)) ≠ (b.pattern &&& (a.mask &&& b.mask))) := by decide

/-! ## One step each -/

theorem test_start_nrzI : nextField (fun t => (t.passOpen, t.sel, t.inBuf, t.ovf, t.responses))
    (step ((State.powerOn paramsInf).issue [.command 0x4100#16])) = some (true, 0b001#3, [], false, [.ack]) := by decide
theorem test_start_from_reset : answerCode (step (State.reset.withFetchWord 16 0x4000)) = some 0x0#4 := by decide
theorem test_sym_stores : nextField State.inBuf (exec (.sym 0x30#8) (openPass paramsInf 0#3 [0x31#8])) =
    some [0x31#8, 0x30#8] := by decide
theorem test_sym_full : nextField (fun t => (t.inBuf, t.ovf, t.responses))
    (exec (.sym 0x31#8) (openPass params2 0#3 [0x31#8, 0x30#8])) =
    some ([0x31#8, 0x30#8], true, [.err .capacity]) := by decide
theorem test_end_closed : answerCode (exec .endPass State.reset) = some 0xB#4 := by decide
theorem test_reserved_word : answerCode (step (State.reset.issue [.command 0x0000#16])) = some 0xC#4 := by decide
theorem test_reset_event : nextField (fun t => (t.passOpen, t.inBuf, t.ovf, t.responses))
    (step ((openPass params2 0#3 [0x31#8]).issue [.reset])) = some (false, [], false, []) := by decide

/-- P1: the result and the registers after the END. -/
theorem test_end_nrzI : (answerResult (exec .endPass (openPass paramsInf 1#3 [0x31#8, 0x30#8, 0x31#8, 0x31#8]))).map
    (fun r => (r.scheme, r.levels, r.plot.xMin, r.plot.xMax)) =
    some (.nrzI, [.high, .high, .low, .high], 0, 4) := by decide
theorem test_end_nrzI_registers : nextField (fun t => (t.passOpen, t.enc))
    (exec .endPass (openPass paramsInf 1#3 [0x31#8, 0x30#8, 0x31#8, 0x31#8])) =
    some (false, { nrziLevel := true, amiPol := true, ptPol := true, dmPrev := true, bits := [], lv := [] }) := by decide

/-- Section 2.7: the priority of errors. -/
theorem test_reserved_beats_invalid : answerCode (exec .endPass (openPass paramsInf 7#3 [0x32#8])) = some 0x9#4 := by decide
theorem test_capacity_beats_invalid :
    answerCode (exec .endPass { openPass params2 4#3 [0x32#8, 0x30#8] with ovf := true }) = some 0xA#4 := by decide

/-- W10: "102" under every scheme. -/
theorem test_invalid_every_scheme : (List.range 6).map
    (fun k => answerCode (exec .endPass (openPass paramsInf (BitVec.ofNat 3 k) [0x31#8, 0x30#8, 0x32#8]))) =
    List.replicate 6 (some 0x8#4) := by decide

/-! Section 2.1 to 2.6: one vector each. -/

theorem test_nrzL_0011 : encLevels .nrzL [false, false, true, true] = [.low, .low, .high, .high] := by decide
theorem test_nrzI_0110 : encLevels .nrzI [false, true, true, false] = [.low, .high, .low, .low] := by decide
theorem test_ami_10101 : encLevels .bipolarAmi [true, false, true, false, true] = [.high, .mid, .low, .mid, .high] := by decide
theorem test_pt_0101 : encLevels .pseudoternary [false, true, false, true] = [.high, .mid, .low, .mid] := by decide
theorem test_manchester_10 : encLevels .manchester [true, false] = [.low, .high, .high, .low] := by decide
theorem test_dm_0110 : encLevels .diffManchester [false, true, true, false] =
    [.low, .high, .high, .low, .low, .high, .low, .high] := by decide

/-- Section 2.9: the plot of DM "1". -/
theorem test_layout_dm_1 : layout params2 .diffManchester [true] [.high, .low] =
    { path := [⟨0, .high⟩, ⟨1, .low⟩, ⟨2, .low⟩], boxes := [⟨0, 2, 2, 0x31#8⟩], xMin := 0, xMax := 2,
      yMin := 0, yMax := 3, labelY0 := 1, labelH := 1 } := by decide
/-- Section 2.9: the boxes of AMI "1101", centres 0.5 to 3.5. -/
theorem test_layout_boxes_ami : (layout params2 .bipolarAmi [true, true, false, true] [.high, .low, .mid, .high]).boxes =
    [⟨0, 1, 1, 0x31#8⟩, ⟨1, 1, 3, 0x31#8⟩, ⟨2, 1, 5, 0x30#8⟩, ⟨3, 1, 7, 0x31#8⟩] := by decide
/-- R163: the wave of NRZ-L "101" holds each level to the next point; its edges are at 1 and 2, none at 3. -/
theorem test_wave : (List.map (layout params2 .nrzL [true, false, true] [.high, .low, .high]).waveAt [1 / 2, 1, 3, 4] =
    [some .high, some .low, some .high, none]) ∧
    (List.range 5).map (layout params2 .nrzL [true, false, true] [.high, .low, .high]).edgeAt =
      [false, true, true, false, false] := by decide +kernel

/-- R75, R76: text to words. -/
theorem test_assemble_text : assembleText ["START #6 ; raw".toList, "".toList, "PASS nrz-i, \"10\"".toList, ".word 0xFFfe".toList] =
    some [0x4600#16, 0x4100#16, 0x8031#16, 0x8030#16, 0xC000#16, 0xFFFE#16] := by decide
theorem test_text_rejected : ["START #8".toList, "SYM '2'".toList, "SYM 0x1".toList, "end".toList, "PASS AMI, \"12\"".toList].map
    parseLine = List.replicate 5 none := by decide

/-- The eight data-path rows as the first instruction after reset: END runs each, under its own scheme or bit. -/
theorem test_withFetchWord_schemes : (List.range 6).map
    (fun k => (answerResult (step (State.reset.withFetchWord 8 k))).map Result.levels) =
    [some [.low], some [.low], some [.mid], some [.high], some [.high, .low], some [.low, .high]] := by decide
theorem test_withFetchWord_symbols : [0x30, 0x31].map
    (fun k => (answerResult (step (State.reset.withFetchWord 8 k))).map Result.levels) =
    [some [.low], some [.high]] := by decide

/-! ## Witnesses: for each statement with hypotheses, a state and operands that meet them, clause by clause -/

/-- A block with one more event issued. -/
def issued (s : State) (e : PortEvent) : State := s.issue [e]

theorem witness_CommandWordFields : (0x3FFF#16).extractLsb 15 14 = 0b00#2 := by decide
theorem witness_ReservedWordsExactly :
    (issued State.reset (.command 0xFFFF#16)).port = [.command 0xFFFF#16] ∧
    decode (.cmd 0xFFFF#16) = .reserved .endFields := ⟨rfl, by decide⟩
theorem witness_DecodeOfEncode : (Instr.sym 0xFF#8).wf = true := rfl
theorem witness_EncodeOfDecode : decode (.sel 0b101#3 true) = .instr (.diffManchester true) := by decide
theorem witness_SymbolCodes : (0x32#8 ≠ 0x30#8 ∧ 0x32#8 ≠ 0x31#8) ∧
    params2.exceeds [0x30#8, 0x32#8].length = false ∧ ∃ c ∈ [0x30#8, 0x32#8], c ≠ 0x30#8 ∧ c ≠ 0x31#8 := by decide
theorem witness_LevelsEmitted : Level.mid ∈ encLevels .pseudoternary [false, true] := by decide
theorem witness_OneResponsePerCommand :
    (issued (openPass params2 7#3 []) (.command 0x4700#16)).port = [.command 0x4700#16] ∧
    decode (.cmd 0x4700#16) = .instr (.start 7#3) ∧ decode (.cmd 0x80FF#16) = .instr (.sym 0xFF#8) ∧
    decode (.cmd 0xC000#16) = .instr .endPass ∧ decode (.cmd 0x0000#16) = .reserved .reservedOp := by
  refine ⟨rfl, ?_⟩; decide
theorem witness_NrzLClosedForm : [true, false][0]? = some true ∧ [true, false][0 + 1]? = some false := by decide
theorem witness_NrzIClosedForm : 1 < [false, true].length ∧ [false, true][0]? = some false ∧
    [false, true][0 + 1]? = some true := by decide
theorem witness_AmiClosedForm :
    [true, false, true][1]? = some false ∧ ([true, false, true].take 0).count true % 2 = 0 ∧
    ([true, false, true].take 2).count true % 2 = 1 ∧ 3 ≤ [true, false, true].length ∧
    (0 < 2 ∧ [true, false, true][0]? = some true ∧ [true, false, true][2]? = some true ∧
      ∀ k, 0 < k → k < 2 → [true, false, true][k]? = some false) := by
  refine ⟨by decide, by decide, by decide, by decide, by decide, by decide, by decide, ?_⟩
  intro k h1 h2
  obtain rfl : k = 1 := by omega
  rfl
theorem witness_PseudoternaryClosedForm :
    [false, true, false][1]? = some true ∧ [false, true, false][0]? = some false ∧
    ([false, true, false].take 0).count false % 2 = 0 ∧ [false, true, false][2]? = some false ∧
    ([false, true, false].take 2).count false % 2 = 1 := by decide
theorem witness_ManchesterClosedForm : [false, false][0]? = some false ∧ [false, false][0 + 1]? = some false := by decide
theorem witness_DiffManchesterClosedForm : 1 < [false, true].length ∧ [false, true][0]? = some false ∧
    [false, true][0 + 1]? = some true := by decide
theorem witness_MuxRouting : (schemeReg .nrzI ≠ some .dmPrev ∧ schemeReg .nrzI = some .nrziLevel) ∧
    (openPass params2 5#3 [0x30#8]).passOpen = true ∧
    decodeScheme (openPass params2 5#3 [0x30#8]).sel = some .diffManchester ∧
    (openPass params2 5#3 [0x30#8]).ovf = false ∧ valid (openPass params2 5#3 [0x30#8]).inBuf = true := by decide
theorem witness_ValidationIsWholeString :
    valid (openPass params2 0#3 [0x30#8, 0x31#8]).inBuf = true ∧ 1 < (openPass params2 0#3 [0x30#8, 0x31#8]).inputPos ∧
    (openPass params2 0#3 [0x30#8, 0x31#8]).memRead 1 = some 0x31#8 ∧
    valid (openPass params2 0#3 [0x32#8]).inBuf = false := by decide
theorem witness_EncodeContract : (∀ x ∈ [0x30#8, 0x31#8], x = 0x30#8 ∨ x = 0x31#8) ∧
    (∃ x ∈ [0x31#8, 0x30#8, 0x32#8], x ≠ 0x30#8 ∧ x ≠ 0x31#8) := by decide
theorem witness_SymAppends : (State.powerOn params2).passOpen = false ∧
    ((openPass params2 0#3 [0x30#8, 0x31#8]).passOpen = true ∧
      (openPass params2 0#3 [0x30#8, 0x31#8]).params.maxBits =
        some (openPass params2 0#3 [0x30#8, 0x31#8]).inBuf.length ∧
      ∃ t, exec (.sym 0x30#8) (openPass params2 0#3 [0x30#8, 0x31#8]) = .next t) ∧
    ((openPass params2 0#3 [0x30#8]).passOpen = true ∧
      (openPass params2 0#3 [0x30#8]).params.maxBits ≠ some (openPass params2 0#3 [0x30#8]).inBuf.length) ∧
    ((openPass paramsInf 0#3 []).passOpen = true ∧ (openPass paramsInf 0#3 []).params.maxBits = none) :=
  ⟨rfl, ⟨rfl, rfl, _, rfl⟩, ⟨rfl, by decide⟩, rfl, rfl⟩
theorem witness_EndPassByCases : State.reset.passOpen = false ∧
    ((openPass params2 6#3 []).passOpen = true ∧ decodeScheme (openPass params2 6#3 []).sel = none) ∧
    ({ openPass params2 5#3 [0x30#8, 0x32#8] with ovf := true } : State).passOpen = true ∧
    decodeScheme ({ openPass params2 5#3 [0x30#8, 0x32#8] with ovf := true } : State).sel = some .diffManchester ∧
    ({ openPass params2 5#3 [0x30#8, 0x32#8] with ovf := true } : State).ovf = true ∧
    ((openPass params2 5#3 [0x32#8]).ovf = false ∧ ∃ c ∈ (openPass params2 5#3 [0x32#8]).inBuf, c ≠ 0x30#8 ∧ c ≠ 0x31#8) ∧
    ((openPass params2 0#3 []).ovf = false ∧ decodeScheme (openPass params2 0#3 []).sel = some .nrzL ∧
      ∀ c ∈ (openPass params2 0#3 []).inBuf, c = 0x30#8 ∨ c = 0x31#8) := by
  refine ⟨rfl, ?_⟩; decide
theorem witness_EndPassByCases_corners : (∃ t, exec .endPass State.reset = .next t) ∧
    (openPass params2 0#3 []).inBuf = [] ∧ (openPass paramsInf 1#3 [0x31#8, 0x30#8, 0x31#8, 0x31#8]).sel = 0b001#3 :=
  ⟨⟨_, rfl⟩, rfl, rfl⟩
theorem witness_EndRunsDataPath : (openPass params2 5#3 [0x30#8, 0x31#8]).passOpen = true ∧
    decodeScheme (openPass params2 5#3 [0x30#8, 0x31#8]).sel = some .diffManchester ∧
    (openPass params2 5#3 [0x30#8, 0x31#8]).ovf = false ∧
    ∀ c ∈ (openPass params2 5#3 [0x30#8, 0x31#8]).inBuf, c = 0x30#8 ∨ c = 0x31#8 := by decide
theorem witness_InvalidSymbolEveryScheme : (openPass params2 4#3 [0x20#8]).passOpen = true ∧
    (openPass params2 4#3 [0x20#8]).sel = schemeCode .manchester ∧ (openPass params2 4#3 [0x20#8]).ovf = false ∧
    valid (openPass params2 4#3 [0x20#8]).inBuf = false := by decide

/-- A full buffer after an overflow meets the invariant. -/
theorem full_inv : (State.Inv { openPass params2 0#3 [0x30#8, 0x31#8] with ovf := true }) :=
  ⟨by decide +kernel, by decide, by decide, by decide, rfl, rfl⟩

/-- Unbounded and open meets the invariant. -/
theorem unbounded_inv (e : PortEvent) : (issued (openPass paramsInf 0#3 [0x30#8]) e).Inv :=
  ⟨(by decide +kernel : paramsInf.wf = true), rfl, fun h => (nomatch h), fun h => (nomatch h), rfl, rfl⟩

theorem witness_CapacityRaisedExactly :
    (issued (openPass paramsInf 0#3 [0x30#8]) endEvent).port = [.command 0xC000#16] ∧
    (issued (openPass paramsInf 0#3 [0x30#8]) endEvent).Inv ∧
    (issued (openPass paramsInf 0#3 [0x30#8]) endEvent).params.maxBits = none := ⟨rfl, unbounded_inv _, rfl⟩
theorem witness_CapacityRaisedExactly_sym :
    nextField State.responses (step (issued (openPass params2 0#3 [0x30#8, 0x31#8]) (.command 0x8030#16))) =
      some [.err .capacity] := by decide
theorem witness_CapacityIsSticky : (openPass params2 0#3 [0x30#8, 0x31#8]).passOpen = true ∧
    (openPass params2 0#3 [0x30#8, 0x31#8]).params.maxBits = some (openPass params2 0#3 [0x30#8, 0x31#8]).inBuf.length := by
  decide
theorem witness_SequenceErrorExactly : State.reset.passOpen = false ∧
    (issued State.reset endEvent).port = [.command 0xC000#16] := ⟨rfl, rfl⟩
theorem witness_ErrorsArePrecise :
    ((issued State.reset (.command 0x8030#16)).port = [.command 0x8030#16] ∧
      nextField State.responses (step (issued State.reset (.command 0x8030#16))) = some [.err .sequence]) ∧
    (decode (.cmd 0x8030#16) = .instr (.sym 0x30#8) ∧
      nextField State.responses (step (issued (openPass params2 0#3 [0x30#8, 0x31#8]) (.command 0x8030#16))) =
        some [.err .capacity]) ∧
    (decode (.cmd 0xC000#16) = .instr .endPass ∧
      nextField State.responses (step (issued (openPass params2 6#3 []) endEvent)) = some [.err .reservedScheme]) := by
  refine ⟨⟨rfl, rfl⟩, ⟨by decide, by decide⟩, by decide, by decide⟩
theorem witness_ResetEvent : (issued (openPass params2 3#3 [0x30#8]) .reset).port = [.reset] := rfl
theorem witness_StepRunsDecoded :
    ((issued State.reset (.command 0x8031#16)).port = [.command 0x8031#16] ∧
      decode (.cmd 0x8031#16) = .instr (.sym 0x31#8)) ∧
    ((issued State.reset (.command 0x4800#16)).port = [.command 0x4800#16] ∧
      decode (.cmd 0x4800#16) = .reserved .startFields) :=
  ⟨⟨rfl, by decide⟩, rfl, by decide⟩
theorem witness_StepAlwaysAnswers : State.reset.port = [] := rfl
theorem witness_PowerOnState : (issued (openPass params2 3#3 [0x30#8]) .reset).port = [.reset] := rfl
theorem witness_InputPosition :
    ((openPass params2 0#3 [0x30#8]).passOpen = true ∧
      (openPass params2 0#3 [0x30#8]).params.maxBits ≠ some (openPass params2 0#3 [0x30#8]).inputPos ∧
      0 < (openPass params2 0#3 [0x30#8]).inputPos) ∧
    (openPass params2 0#3 [0x30#8, 0x31#8]).params.maxBits = some (openPass params2 0#3 [0x30#8, 0x31#8]).inputPos ∧
    (∃ s : State, s.Inv ∧ s.passOpen = true) ∧
    (issued (openPass params2 3#3 [0x30#8]) .reset).port = [.reset] :=
  ⟨by decide, by decide, ⟨_, full_inv, rfl⟩, rfl⟩
theorem witness_WhoWritesWhat :
    (issued (openPass params2 0#3 []) endEvent).port = [.command 0xC000#16] ∧
    (issued (openPass params2 0#3 []) endEvent).passOpen = true ∧
    (∃ t, step (issued (openPass params2 0#3 []) endEvent) = .next t) ∧
    (∀ sss, decode (.cmd 0xC000#16) ≠ .instr (.start sss)) ∧ decode (.cmd 0x8000#16) = .instr (.sym 0#8) ∧
    decode (.cmd 0x8000#16) ≠ .instr .endPass ∧ decode (.cmd 0x0001#16) = .reserved .reservedOp ∧
    decode (.cmd 0x4600#16) = .instr (.start 6#3) :=
  ⟨rfl, rfl, ⟨_, rfl⟩, by decide, by decide, by decide, by decide, by decide⟩
theorem witness_WhoWritesWhat_reset :
    (issued (openPass params2 3#3 [0x30#8]) .reset).port = .reset :: [] ∧
    ∃ t, step (issued (openPass params2 3#3 [0x30#8]) .reset) = .next t := ⟨rfl, _, rfl⟩
theorem witness_EveryStepKeepsInvariant : ∃ t, (issued (openPass paramsInf 0#3 [0x30#8]) endEvent).Inv ∧
    step (issued (openPass paramsInf 0#3 [0x30#8]) endEvent) = .next t := ⟨_, unbounded_inv _, rfl⟩
theorem witness_PowerOnMeetsInvariant : params2.wf = true := by decide +kernel
theorem witness_CommandsComputePass :
    ((State.powerOn params2).issue (passEvents 1#3 [0x31#8, 0x30#8, 0x31#8] ++ [.reset])).port =
      passEvents 1#3 [0x31#8, 0x30#8, 0x31#8] ++ [.reset] := rfl
theorem witness_PassByCases : decodeScheme 7#3 = none ∧ decodeScheme 5#3 = some .diffManchester ∧
    (params2.maxBits = some 2 ∧ 2 < [0x30#8, 0x30#8, 0x30#8].length) ∧
    (∀ m, params2.maxBits = some m → [0x30#8, 0x32#8].length ≤ m) ∧
    (∃ x ∈ [0x30#8, 0x32#8], x ≠ 0x30#8 ∧ x ≠ 0x31#8) ∧ (∀ x ∈ [0x30#8, 0x31#8], x = 0x30#8 ∨ x = 0x31#8) := by
  refine ⟨by decide, by decide, by decide, ?_, by decide, by decide⟩
  intro m h
  cases h
  decide
theorem witness_RepeatedPassRepeats :
    (State.reset.issue (passEvents 2#3 [0x31#8] ++ (passEvents 2#3 [0x31#8] ++ []))).port =
      passEvents 2#3 [0x31#8] ++ (passEvents 2#3 [0x31#8] ++ []) := rfl
theorem witness_RepeatedPassRepeats_any :
    ((State.powerOn params2).issue (passEvents 3#3 [0x31#8] ++ [])).params =
      ((openPass params2 5#3 [0x32#8]).issue (passEvents 3#3 [0x31#8] ++ [.reset])).params ∧
    ((State.powerOn params2).issue (passEvents 3#3 [0x31#8] ++ [])).port = passEvents 3#3 [0x31#8] ++ [] ∧
    ((openPass params2 5#3 [0x32#8]).issue (passEvents 3#3 [0x31#8] ++ [.reset])).port =
      passEvents 3#3 [0x31#8] ++ [.reset] ∧
    (∀ m, params2.maxBits = some m → 1 ≤ m) := by
  refine ⟨rfl, rfl, rfl, ?_⟩
  intro m h
  cases h
  decide
theorem witness_UnspecifiedIsUnobservable : (State.powerOn params2).SameToHost
    { State.powerOn params2 with sel := 7#3, enc := { Encoder.powerOn with nrziLevel := true }, fresh := 5 } :=
  ⟨rfl, rfl, rfl, rfl, rfl, rfl, fun h => (nomatch h)⟩
theorem witness_InstancesShareNothing : 1 ≠ 0 ∧ [State.reset, State.powerOn params2][0]? = some State.reset := ⟨by decide, rfl⟩
theorem witness_StepPathPoints : [Level.high, Level.mid].getLast? = some .mid ∧ 2 ≤ [Level.high, Level.mid].length := by decide
theorem witness_HoldConvention : [Level.high, Level.mid] ≠ [] ∧ (0 : Rat) ≤ 3 / 2 ∧ (3 / 2 : Rat) < [Level.high, Level.mid].length := by
  refine ⟨by decide, by norm_num, by norm_num⟩
theorem witness_PlotBounds : paramsInf.wf = true := by decide +kernel
theorem witness_LabelBoxes : [false, true][1]? = some true ∧
    (layout params2 .manchester [false, true] (encLevels .manchester [false, true])).boxes[0]? = some ⟨0, 2, 2, 0x30#8⟩ ∧
    (layout params2 .manchester [false, true] (encLevels .manchester [false, true])).boxes[0 + 1]? = some ⟨2, 2, 6, 0x31#8⟩ ∧
    (layout params2 .manchester [false, true] (encLevels .manchester [false, true])).boxes.getLast? =
      some ⟨2, 2, 6, 0x31#8⟩ := by decide
theorem witness_EmptyPlotAndCounts : [false] ≠ [] := by decide
theorem witness_TextSyntax : 7 < 8 ∧ 255 < 256 ∧ 65535 < 65536 ∧ "Nrz-l".toList.map Char.toUpper = "NRZ-L".toList ∧
    hexDigit 'f' = some 15 ∧ 9 < 10 ∧ 5 < 6 ∧ ';' ∉ "END ".toList := by decide +kernel
theorem witness_ParsedLinesWellFormed : parseLine "START #7".toList = some (some (.startCode 7)) := by decide
theorem witness_PassPseudoInstruction : schemeOfName "nrz-I".toList = some .nrzI ∧
    (State.reset.issue ((assemble (.pass .nrzI [true, false])).map .command ++ [])).port =
      (assemble (.pass .nrzI [true, false])).map .command ++ [] := ⟨by decide +kernel, rfl⟩

end Sys2Proof.Tests
end

-- ==== Proofs of the family 10_state ====
section
/-! PROOFS. The input position K = len(IN) (10_state.md R24): what START, SYM, END and RESET do to it. -/

namespace Sys2Proof.Machine

/-- The dispatcher runs START (R139). -/
theorem exec_start (sss : SelCode) (s : State) : exec (.start sss) s = execStart sss s := rfl

/-- The dispatcher runs SYM (R140). -/
theorem exec_sym (d : Byte) (s : State) : exec (.sym d) s = execSym d s := rfl

/-- The dispatcher runs END (R141). -/
theorem exec_endPass (s : State) : exec .endPass s = execEnd s := rfl

/-- A step on a RESET event performs it, after the block has taken it from the port (R142). -/
theorem step_of_reset {s : State} {rest : List PortEvent} (h : s.port = .reset :: rest) :
    step s = resetEvent (s.setPort rest) := by
  simp [step, h]

/-- R140: SYM in an open pass below capacity stores its byte. -/
theorem execSym_of_room (d : Byte) {s : State} (ho : s.passOpen = true)
    (hc : s.params.maxBits ≠ some s.inputPos) :
    execSym d s = .next ((s.memWrite s.inputPos d).respond .ack) := by
  obtain ⟨hclosed, _⟩ | ⟨_, hfull, _⟩ | ⟨_, _, h⟩ := execSym_cases d s
  · simp [ho] at hclosed
  · exact absurd (Params.atCapacity_iff.1 hfull) hc
  · exact h

/-- R140: SYM in an open pass at capacity discards its byte and sets OVF. -/
theorem execSym_of_full (d : Byte) {s : State} (ho : s.passOpen = true)
    (hc : s.params.maxBits = some s.inputPos) :
    execSym d s = .next ((s.setOvf true).raise .capacity) := by
  have hfull : s.params.atCapacity s.inputPos = true := Params.atCapacity_iff.2 hc
  simp [execSym, ho, hfull]

/-- With IN empty, the input position is 0 (R24). -/
theorem State.inputPos_of_inBuf_nil {s : State} (h : s.inBuf = []) : s.inputPos = 0 := by
  simp [State.inputPos, h]

@[simp] theorem State.respond_inputPos (s : State) (r : Response) : (s.respond r).inputPos = s.inputPos := rfl

@[simp] theorem State.respond_memRead (s : State) (r : Response) (k : Nat) : (s.respond r).memRead k = s.memRead k := rfl

/-- R24: a symbol stored at the input position advances it by exactly 1. -/
theorem State.inputPos_memWrite_end (s : State) (d : Byte) :
    (s.memWrite s.inputPos d).inputPos = s.inputPos + 1 := by
  rw [State.inputPos, State.memWrite_end, List.length_append]
  rfl

/-- R24: START sets the input position to 0. -/
theorem execStart_inputPos (sss : SelCode) (s : State) :
    ∃ t, execStart sss s = .next t ∧ t.inputPos = 0 :=
  ⟨_, rfl, rfl⟩

/-- R24: a SYM that stores its byte puts it at the input position, leaves the bytes below, and advances the position by 1. -/
theorem execSym_inputPos (d : Byte) {s : State} (ho : s.passOpen = true) (hc : s.params.maxBits ≠ some s.inputPos) :
    ∃ t, execSym d s = .next t ∧ t.inputPos = s.inputPos + 1 ∧ t.memRead s.inputPos = some d ∧
      ∀ k, k < s.inputPos → t.memRead k = s.memRead k := by
  refine ⟨_, execSym_of_room d ho hc, ?_, ?_, fun k hk => ?_⟩
  · rw [State.respond_inputPos, State.inputPos_memWrite_end]
  · rw [State.respond_memRead, State.memRead_memWrite_end]
  · rw [State.respond_memRead, State.memRead_memWrite_ne s d (Nat.ne_of_lt hk)]

/-- R24: END leaves the input position 0. With no pass open END writes nothing, and there the invariant says that IN is empty
already (R201). -/
theorem execEnd_inputPos {s : State} (hi : s.Inv) : ∃ t, execEnd s = .next t ∧ t.inputPos = 0 := by
  obtain ⟨hclosed, h⟩ | ⟨_, h⟩ := execEnd_cases s
  · have hempty : s.inBuf = [] := (hi.closed_empty hclosed).1
    exact ⟨_, h, State.inputPos_of_inBuf_nil hempty⟩
  · exact ⟨_, h, State.inputPos_of_inBuf_nil rfl⟩

/-- R24: RESET sets the input position to 0. -/
theorem resetEvent_inputPos (s : State) : ∃ t, resetEvent s = .next t ∧ t.inputPos = 0 :=
  ⟨_, rfl, rfl⟩

end Sys2Proof.Machine

namespace Sys2Proof

open Machine

/-- Settles O44: a clause for power-on and one for each of START, SYM below capacity, SYM at capacity, END and RESET. -/
theorem inputPosition : Obligations.InputPosition := by
  unfold Obligations.InputPosition
  refine ⟨fun p => rfl, fun s sss => ?start, fun s d ho hc => ?symRoom, fun s d ho hc => ?symFull,
    fun s hi => ?endPass, fun s rest hp => ?reset⟩
  case start => rw [exec_start]; exact execStart_inputPos sss s
  case symRoom => rw [exec_sym]; exact execSym_inputPos d ho hc
  case symFull => rw [exec_sym]; exact ⟨_, execSym_of_full d ho hc, rfl, rfl⟩
  case endPass => rw [exec_endPass]; exact execEnd_inputPos hi
  case reset => rw [step_of_reset hp]; exact resetEvent_inputPos (s.setPort rest)

end Sys2Proof
end

-- ==== Proofs of the family 30_encoding ====
section
/-! PROOFS. Command words and their decoding (30_encoding.md R60 to R66 and R74). -/

namespace Sys2Proof

/-! The fields of a word that is put together from its fields (R61). -/

section
variable (op : BitVec 2) (rsv sel : BitVec 3) (data : Byte)

@[simp] theorem cwOp_commandWord : cwOp (commandWord op rsv sel data) = op :=
  BitVec.extractLsb'_append_eq_left

@[simp] theorem cwRsv_commandWord : cwRsv (commandWord op rsv sel data) = rsv := by
  rw [cwRsv, commandWord, BitVec.extractLsb'_append_eq_of_add_le (by decide), BitVec.extractLsb'_append_eq_left]

@[simp] theorem cwSel_commandWord : cwSel (commandWord op rsv sel data) = sel := by
  rw [cwSel, commandWord, BitVec.extractLsb'_append_eq_of_add_le (by decide),
    BitVec.extractLsb'_append_eq_of_add_le (by decide), BitVec.extractLsb'_append_eq_left]

@[simp] theorem cwData_commandWord : cwData (commandWord op rsv sel data) = data := by
  rw [cwData, commandWord, BitVec.extractLsb'_append_eq_of_add_le (by decide),
    BitVec.extractLsb'_append_eq_of_add_le (by decide), BitVec.extractLsb'_append_eq_right]

end

/-- `CW[10:0]` is the field SEL before the data byte. -/
theorem cwSel_append_cwData (w : CommandWord) : cwSel w ++ cwData w = w.extractLsb' 0 11 :=
  BitVec.extractLsb'_append_extractLsb'_eq_extractLsb' rfl

/-- `CW[13:8]` is the reserved field before the field SEL. -/
theorem cwRsv_append_cwSel (w : CommandWord) : cwRsv w ++ cwSel w = w.extractLsb' 8 6 :=
  BitVec.extractLsb'_append_extractLsb'_eq_extractLsb' rfl

/-- `CW[13:0]` is everything but the opcode. -/
theorem cwRsv_append_cwSel_append_cwData (w : CommandWord) :
    cwRsv w ++ (cwSel w ++ cwData w) = w.extractLsb' 0 14 := by
  rw [cwSel_append_cwData]
  exact BitVec.extractLsb'_append_extractLsb'_eq_extractLsb' rfl

/-- A word is put together from its own fields: the four fields cover all 16 bits (R61). -/
theorem commandWord_fields (w : CommandWord) : commandWord (cwOp w) (cwRsv w) (cwSel w) (cwData w) = w := by
  rw [commandWord, cwRsv_append_cwSel_append_cwData]
  exact BitVec.extractLsb'_append_extractLsb'

/-- A word is the one with the given fields exactly when its fields are those. -/
theorem eq_commandWord_iff {w : CommandWord} {op : BitVec 2} {rsv sel : BitVec 3} {data : Byte} :
    w = commandWord op rsv sel data ↔ cwOp w = op ∧ cwRsv w = rsv ∧ cwSel w = sel ∧ cwData w = data := by
  constructor
  · rintro rfl
    simp
  · rintro ⟨rfl, rfl, rfl, rfl⟩
    exact (commandWord_fields w).symm

/-- A bit string is 0 exactly when both its parts are. -/
theorem append_eq_zero_iff {m n : Nat} {x : BitVec m} {y : BitVec n} : x ++ y = 0#(m + n) ↔ x = 0#m ∧ y = 0#n := by
  constructor
  · intro h
    have hx := congrArg (BitVec.extractLsb' n m) h
    have hy := congrArg (BitVec.extractLsb' 0 n) h
    rw [BitVec.extractLsb'_append_eq_left, BitVec.extractLsb'_zero] at hx
    rw [BitVec.extractLsb'_append_eq_right, BitVec.extractLsb'_zero] at hy
    exact ⟨hx, hy⟩
  · rintro ⟨rfl, rfl⟩
    exact BitVec.zero_append_zero

/-- `CW[13:8] = 0`, field by field. -/
theorem slice_13_8_eq_zero_iff {w : CommandWord} : w.extractLsb 13 8 = 0#6 ↔ cwRsv w = 0#3 ∧ cwSel w = 0#3 := by
  rw [← append_eq_zero_iff, cwRsv_append_cwSel]
  rfl

/-- `CW[13:0] = 0`, field by field. -/
theorem slice_13_0_eq_zero_iff {w : CommandWord} :
    w.extractLsb 13 0 = 0#14 ↔ cwRsv w = 0#3 ∧ cwSel w = 0#3 ∧ cwData w = 0#8 := by
  rw [← append_eq_zero_iff, ← append_eq_zero_iff, cwRsv_append_cwSel_append_cwData]
  rfl

/-! The four-way test (R74), outcome by outcome, by the fields of the word. -/

/-- An opcode is one of four (R62). -/
theorem op_cases (op : BitVec 2) : op = 0b00#2 ∨ op = 0b01#2 ∨ op = 0b10#2 ∨ op = 0b11#2 := by
  revert op
  decide

section
variable {w : CommandWord}

theorem decodeCommand_of_op00 (h : cwOp w = 0b00#2) : decodeCommand w = .reserved .reservedOp := by
  simp [decodeCommand, h]

theorem decodeCommand_of_op01 (h : cwOp w = 0b01#2) :
    decodeCommand w =
      if cwRsv w = 0#3 ∧ cwData w = 0#8 then .instr (.start (cwSel w)) else .reserved .startFields := by
  simp [decodeCommand, h]

theorem decodeCommand_of_op10 (h : cwOp w = 0b10#2) :
    decodeCommand w =
      if cwRsv w = 0#3 ∧ cwSel w = 0#3 then .instr (.sym (cwData w)) else .reserved .symFields := by
  simp [decodeCommand, h]

theorem decodeCommand_of_op11 (h : cwOp w = 0b11#2) :
    decodeCommand w =
      if cwRsv w = 0#3 ∧ cwSel w = 0#3 ∧ cwData w = 0#8 then .instr .endPass else .reserved .endFields := by
  simp [decodeCommand, h]

theorem decodeCommand_eq_start_iff {sss : SelCode} :
    decodeCommand w = .instr (.start sss) ↔ cwOp w = 0b01#2 ∧ cwRsv w = 0#3 ∧ cwSel w = sss ∧ cwData w = 0#8 := by
  obtain h | h | h | h := op_cases (cwOp w)
  · simp [decodeCommand_of_op00 h, h]
  · rw [decodeCommand_of_op01 h]
    split <;> simp_all
  · rw [decodeCommand_of_op10 h]
    split <;> simp [h]
  · rw [decodeCommand_of_op11 h]
    split <;> simp [h]

theorem decodeCommand_eq_sym_iff {d : Byte} :
    decodeCommand w = .instr (.sym d) ↔ cwOp w = 0b10#2 ∧ cwRsv w = 0#3 ∧ cwSel w = 0#3 ∧ cwData w = d := by
  obtain h | h | h | h := op_cases (cwOp w)
  · simp [decodeCommand_of_op00 h, h]
  · rw [decodeCommand_of_op01 h]
    split <;> simp [h]
  · rw [decodeCommand_of_op10 h]
    split <;> simp_all
  · rw [decodeCommand_of_op11 h]
    split <;> simp [h]

theorem decodeCommand_eq_endPass_iff :
    decodeCommand w = .instr .endPass ↔ cwOp w = 0b11#2 ∧ cwRsv w = 0#3 ∧ cwSel w = 0#3 ∧ cwData w = 0#8 := by
  obtain h | h | h | h := op_cases (cwOp w)
  · simp [decodeCommand_of_op00 h, h]
  · rw [decodeCommand_of_op01 h]
    split <;> simp [h]
  · rw [decodeCommand_of_op10 h]
    split <;> simp [h]
  · rw [decodeCommand_of_op11 h]
    split <;> simp_all

/-- R66: the reserved words, by their fields. -/
theorem decodeCommand_eq_reserved_iff :
    (∃ why, decodeCommand w = .reserved why) ↔
      cwOp w = 0b00#2 ∨
      (cwOp w = 0b01#2 ∧ (cwRsv w ≠ 0#3 ∨ cwData w ≠ 0#8)) ∨
      (cwOp w = 0b10#2 ∧ ¬ (cwRsv w = 0#3 ∧ cwSel w = 0#3)) ∨
      (cwOp w = 0b11#2 ∧ ¬ (cwRsv w = 0#3 ∧ cwSel w = 0#3 ∧ cwData w = 0#8)) := by
  obtain h | h | h | h := op_cases (cwOp w)
  · simp [decodeCommand_of_op00 h, h]
  · rw [decodeCommand_of_op01 h, ne_eq, ne_eq, ← not_and_or]
    split <;> simp [*]
  · rw [decodeCommand_of_op10 h]
    split <;> simp [*]
  · rw [decodeCommand_of_op11 h]
    split <;> simp [*]

end

namespace Machine

/-! Each command has exactly the words of its encoding (R63 to R65). -/

theorem decodeCommand_eq_start_iff_word {w : CommandWord} {sss : SelCode} :
    decodeCommand w = .instr (.start sss) ↔ w = startWord sss :=
  decodeCommand_eq_start_iff.trans eq_commandWord_iff.symm

theorem decodeCommand_eq_sym_iff_word {w : CommandWord} {d : Byte} :
    decodeCommand w = .instr (.sym d) ↔ w = symWord d :=
  decodeCommand_eq_sym_iff.trans eq_commandWord_iff.symm

theorem decodeCommand_eq_endPass_iff_word {w : CommandWord} : decodeCommand w = .instr .endPass ↔ w = endWord :=
  decodeCommand_eq_endPass_iff.trans eq_commandWord_iff.symm

theorem startWord_injective : Function.Injective startWord := fun a b h => by
  simpa [startWord] using congrArg cwSel h

theorem symWord_injective : Function.Injective symWord := fun a b h => by
  simpa [symWord] using congrArg cwData h

/-! How many words each outcome has (R66). -/

/-- There are `2 ^ n` bit strings of width `n`. -/
theorem card_bitVec (n : Nat) : Fintype.card (BitVec n) = 2 ^ n :=
  FinEnum.card_eq_fintypeCard.symm.trans (FinEnum.card_bitVec n)

theorem card_start_words :
    (Finset.univ.filter fun w : CommandWord => ∃ sss, decodeCommand w = .instr (.start sss)).card = 8 := by
  have himage : (Finset.univ.filter fun w : CommandWord => ∃ sss, decodeCommand w = .instr (.start sss)) =
      Finset.univ.image startWord := by
    ext w
    simp [decodeCommand_eq_start_iff_word, eq_comm]
  rw [himage, Finset.card_image_of_injective _ startWord_injective, Finset.card_univ, card_bitVec]
  norm_num

theorem card_sym_words :
    (Finset.univ.filter fun w : CommandWord => ∃ d, decodeCommand w = .instr (.sym d)).card = 256 := by
  have himage : (Finset.univ.filter fun w : CommandWord => ∃ d, decodeCommand w = .instr (.sym d)) =
      Finset.univ.image symWord := by
    ext w
    simp [decodeCommand_eq_sym_iff_word, eq_comm]
  rw [himage, Finset.card_image_of_injective _ symWord_injective, Finset.card_univ, card_bitVec]
  norm_num

theorem card_end_words :
    (Finset.univ.filter fun w : CommandWord => decodeCommand w = .instr .endPass).card = 1 := by
  simp only [decodeCommand_eq_endPass_iff_word, Finset.filter_eq', Finset.mem_univ, if_true, Finset.card_singleton]

theorem instr?_ne_none_iff {w : CommandWord} :
    ¬ (decodeCommand w).instr? = none ↔
      (∃ sss, decodeCommand w = .instr (.start sss)) ∨ (∃ d, decodeCommand w = .instr (.sym d)) ∨
      decodeCommand w = .instr .endPass := by
  obtain ⟨sss, h⟩ | ⟨d, h⟩ | h | ⟨why, h⟩ := decodeCommand_cases w <;> simp [h, Decoded.instr?]

/-- The words of the three commands together. -/
theorem card_command_words :
    (Finset.univ.filter fun w : CommandWord => ¬ (decodeCommand w).instr? = none).card = 8 + (256 + 1) := by
  simp only [instr?_ne_none_iff]
  rw [Finset.filter_or, Finset.filter_or, Finset.card_union_of_disjoint, Finset.card_union_of_disjoint,
    card_start_words, card_sym_words, card_end_words]
  · refine Finset.disjoint_filter.2 ?_
    rintro w - ⟨d, hd⟩ he
    simp [hd] at he
  · rw [← Finset.filter_or]
    refine Finset.disjoint_filter.2 ?_
    rintro w - ⟨sss, hs⟩ h
    simp [hs] at h

/-- How many elements meet `p`, from how many do not. Stated for every count, so that the kernel never evaluates a count of
65536 words. -/
theorem card_filter_of_card_filter_not {α : Type} [Fintype α] {p : α → Prop} [DecidablePred p] {m n : Nat}
    (hnot : (Finset.univ.filter fun x => ¬ p x).card = n) (hall : Fintype.card α = m + n) :
    (Finset.univ.filter p).card = m := by
  have h := Finset.card_filter_add_card_filter_not (s := Finset.univ) p
  rw [hnot, Finset.card_univ, hall] at h
  exact Nat.add_right_cancel h

theorem card_reserved_words :
    (Finset.univ.filter fun w : CommandWord => (decodeCommand w).instr? = none).card = 65271 :=
  card_filter_of_card_filter_not card_command_words (card_bitVec 16)

end Machine
end Sys2Proof
end

section
/-! PROOFS. What a step does with a command word, and the one response it gives (30_encoding.md R66 and R72). -/

namespace Sys2Proof.Machine

section
variable {s : State} {w : CommandWord} {rest : List PortEvent}

/-- R143: a step on the word of an instruction runs that instruction, after the block has taken the word from the port. -/
theorem step_of_instr {i : Instr} (hp : s.port = .command w :: rest) (hw : decodeCommand w = .instr i) :
    step s = exec i (s.setPort rest) := by
  simp [step, hp, hw]

/-- R185: a step on a reserved word answers its error and does nothing else. -/
theorem step_of_reserved {why : Reject} (hp : s.port = .command w :: rest) (hw : decodeCommand w = .reserved why) :
    step s = .next ((s.setPort rest).raise .reservedCommand) := by
  simp [step, hp, hw, reservedWord]

end

/-- R72: the responses that SYM has. -/
def Response.ofSym (r : Response) : Prop := r = .ack ∨ r = .err .capacity ∨ r = .err .sequence

/-- R72: the responses that END has. -/
def Response.ofEnd (r : Response) : Prop :=
  (∃ x, r = .ok x) ∨ r = .err .invalidSymbol ∨ r = .err .reservedScheme ∨ r = .err .capacity ∨ r = .err .sequence

/-- The outcome `o` of a command on `s` is a next state with `r` as its one new response, and the port as it was. -/
def Answers (o : Outcome) (s : State) (r : Response) : Prop :=
  ∃ t, o = .next t ∧ t.responses = s.responses ++ [r] ∧ t.port = s.port

theorem execStart_answers (sss : SelCode) (s : State) : Answers (execStart sss s) s .ack :=
  ⟨_, rfl, rfl, rfl⟩

theorem execSym_answers (d : Byte) (s : State) : ∃ r, r.ofSym ∧ Answers (execSym d s) s r := by
  obtain ⟨_, h⟩ | ⟨_, _, h⟩ | ⟨_, _, h⟩ := execSym_cases d s
  · exact ⟨.err .sequence, .inr (.inr rfl), _, h, rfl, rfl⟩
  · exact ⟨.err .capacity, .inr (.inl rfl), _, h, rfl, rfl⟩
  · exact ⟨.ack, .inl rfl, _, h, rfl, rfl⟩

theorem compute_ofEnd (s : State) : (compute s).1.ofEnd := by
  obtain ⟨_, h⟩ | ⟨_, _, ⟨_, h⟩ | ⟨_, _, h⟩ | ⟨_, _, h⟩⟩ := compute_cases s <;> simp [h, Response.ofEnd]

theorem execEnd_answers (s : State) : ∃ r, r.ofEnd ∧ Answers (execEnd s) s r := by
  obtain ⟨_, h⟩ | ⟨_, h⟩ := execEnd_cases s
  · exact ⟨.err .sequence, .inr (.inr (.inr (.inr rfl))), _, h, rfl, rfl⟩
  · exact ⟨(compute s).1, compute_ofEnd s, _, h, rfl, rfl⟩

/-- R72: the response is of a kind that the decoded command has. -/
def Response.fits (r : Response) (d : Decoded) : Prop :=
  (∀ sss, d = .instr (.start sss) → r = .ack) ∧ (∀ b, d = .instr (.sym b) → r.ofSym) ∧
  (d = .instr .endPass → r.ofEnd) ∧ ∀ why, d = .reserved why → r = .err .reservedCommand

/-- R72: a step on a command word gives one response, of a kind that its command has. -/
theorem step_answers {s : State} {w : CommandWord} {rest : List PortEvent} (hp : s.port = .command w :: rest) :
    ∃ r, r.fits (decodeCommand w) ∧ Answers (step s) (s.setPort rest) r := by
  obtain ⟨sss, hw⟩ | ⟨d, hw⟩ | hw | ⟨why, hw⟩ := decodeCommand_cases w
  · refine ⟨.ack, by simp [Response.fits, hw], ?_⟩
    rw [step_of_instr hp hw, exec_start]
    exact execStart_answers sss _
  · obtain ⟨r, hr, h⟩ := execSym_answers d (s.setPort rest)
    refine ⟨r, by simp [Response.fits, hw, hr], ?_⟩
    rwa [step_of_instr hp hw, exec_sym]
  · obtain ⟨r, hr, h⟩ := execEnd_answers (s.setPort rest)
    refine ⟨r, by simp [Response.fits, hw, hr], ?_⟩
    rwa [step_of_instr hp hw, exec_endPass]
  · refine ⟨.err .reservedCommand, by simp [Response.fits, hw], ?_⟩
    exact ⟨_, step_of_reserved hp hw, rfl, rfl⟩

/-- R72: the codes of responses. -/
theorem Response.code_mem (r : Response) : r.code ∈ [0x0#4, 0x1#4, 0x8#4, 0x9#4, 0xA#4, 0xB#4, 0xC#4] := by
  cases r with
  | ack => simp [Response.code]
  | ok x => simp [Response.code]
  | err e => cases e <;> simp [Response.code, ErrorCode.code]

end Sys2Proof.Machine

namespace Sys2Proof

open Machine

/-- Settles O2: the fields of a word that `encode` puts together are the parts it is put together from. -/
theorem commandWordFields : Obligations.CommandWordFields := by
  unfold Obligations.CommandWordFields
  refine ⟨fun sss => ⟨_, rfl, ?_⟩, fun d => ⟨_, rfl, ?_⟩, ⟨_, rfl, ?_⟩, fun w hop => ⟨_, decodeCommand_of_op00 hop⟩⟩
  all_goals exact ⟨cwOp_commandWord .., cwRsv_commandWord .., cwSel_commandWord .., cwData_commandWord ..⟩

/-- Settles O3: each outcome by the fields of the word, the joined fields `CW[13:8]` and `CW[13:0]` taken apart; totality is
`decodeCommand_cases`. -/
theorem decodeFourWayTest : Obligations.DecodeFourWayTest := by
  unfold Obligations.DecodeFourWayTest
  refine fun w => ⟨fun sss => decodeCommand_eq_start_iff.trans ?start, fun d => decodeCommand_eq_sym_iff.trans ?sym,
    decodeCommand_eq_endPass_iff.trans ?endPass, decodeCommand_cases w⟩
  case start => exact and_congr_right fun _ => and_congr_right fun _ => and_comm
  case sym => rw [slice_13_8_eq_zero_iff, and_assoc]; rfl
  case endPass => rw [slice_13_0_eq_zero_iff]; rfl

/-- Settles O4: the reserved words by their fields, the step by `step_of_reserved`, and the counts of the four outcomes. -/
theorem reservedWordsExactly : Obligations.ReservedWordsExactly := by
  unfold Obligations.ReservedWordsExactly
  refine ⟨fun w => ?fields, fun s w why rest hp hw => step_of_reserved hp hw, card_start_words, card_sym_words,
    card_end_words, card_reserved_words⟩
  case fields =>
    rw [ne_eq (w.extractLsb 13 8), ne_eq (w.extractLsb 13 0), slice_13_8_eq_zero_iff, slice_13_0_eq_zero_iff]
    exact decodeCommand_eq_reserved_iff

/-- Settles O11: one response for each outcome of the decoder, and the codes by cases on the response. -/
theorem oneResponsePerCommand : Obligations.OneResponsePerCommand := by
  unfold Obligations.OneResponsePerCommand
  refine ⟨fun s w rest hp => ?_, Response.code_mem, rfl, fun _ => rfl, rfl, rfl, rfl, rfl, rfl⟩
  obtain ⟨r, hfits, t, hstep, hresponses, hport⟩ := step_answers hp
  exact ⟨t, r, hstep, hresponses, hport, hfits⟩

end Sys2Proof
end

section
/-! PROOFS. The code tables of schemes, symbols and levels (30_encoding.md R67 to R71). -/

namespace Sys2Proof

@[simp] theorem decodeScheme_schemeCode (s : Scheme) : decodeScheme (schemeCode s) = some s := by
  cases s <;> rfl

/-- R131, R132: the code of a scheme selects the transition of that scheme. -/
theorem decode_sel_schemeCode (s : Scheme) (b : Bit) :
    decode (.sel (schemeCode s) b) = .instr (transitionInstr s b) := by
  simp [decode]

theorem bitval_eq_none {c : Byte} (h0 : c ≠ 0x30#8) (h1 : c ≠ 0x31#8) : bitval c = none := by
  simp [bitval, h0, h1]

theorem isSymbol_iff {c : Byte} : isSymbol c = true ↔ c = 0x30#8 ∨ c = 0x31#8 := by
  constructor
  · intro h
    obtain ⟨b, hb⟩ := Option.isSome_iff_exists.1 h
    cases b with
    | false => exact .inl (bitval_eq_some hb)
    | true => exact .inr (bitval_eq_some hb)
  · rintro (rfl | rfl) <;> rfl

/-- One invalid byte makes the whole sequence invalid (R130). -/
theorem valid_eq_false {cs : List Byte} (h : ∃ c ∈ cs, c ≠ 0x30#8 ∧ c ≠ 0x31#8) : valid cs = false := by
  obtain ⟨c, hc, h0, h1⟩ := h
  rw [valid, List.all_eq_false]
  exact ⟨c, hc, by rw [isSymbol_iff]; exact not_or.2 ⟨h0, h1⟩⟩

theorem Level.code_ne_three (l : Level) : l.code ≠ 0b11#2 := by
  cases l <;> decide

theorem Level.code_toNat (l : Level) : (l.code.toNat : Rat) = 2 * l.value := by
  cases l <;> norm_num [Level.code, Level.value]

theorem Level.ofCode_code (l : Level) : Level.ofCode l.code = some l := by
  cases l <;> rfl

@[simp] theorem Level.mid_ne_ofBit (b : Bit) : Level.mid ≠ Level.ofBit b := by
  cases b <;> decide

namespace Machine

/-- R138: a pass that fits and holds an invalid byte is answered ERR_INVALID_SYMBOL, whatever the scheme. -/
theorem passResponse_of_invalid (sc : Scheme) {p : Params} {cs : List Byte} (hfits : p.exceeds cs.length = false)
    (hv : valid cs = false) : passResponse p (schemeCode sc) cs = .err .invalidSymbol := by
  simp [passResponse, hfits, hv]

/-- R71: the two schemes that emit MID. -/
def Bipolar (s : Scheme) : Prop := s = .bipolarAmi ∨ s = .pseudoternary

/-- R71: a transition of any other scheme adds no MID to LV. -/
theorem transition_keeps_no_mid {s : Scheme} (hs : ¬ Bipolar s) (b : Bit) {e : Encoder} (h : Level.mid ∉ e.lv) :
    Level.mid ∉ (transition s b e).lv := by
  cases s with
  | nrzL => simp [transition, tNrzL, h]
  | nrzI => cases b <;> simp [transition, tNrzI, h]
  | bipolarAmi => exact absurd (.inl rfl) hs
  | pseudoternary => exact absurd (.inr rfl) hs
  | manchester => cases b <;> simp [transition, tMan, h]
  | diffManchester => cases b <;> cases hp : e.dmPrev <;> simp [transition, tDm, hp, h]

theorem foldl_transition_keeps_no_mid {s : Scheme} (hs : ¬ Bipolar s) (bits : List Bit) {e : Encoder}
    (h : Level.mid ∉ e.lv) : Level.mid ∉ (bits.foldl (fun e b => transition s b e) e).lv := by
  induction bits generalizing e with
  | nil => exact h
  | cons b bs ih => exact ih (transition_keeps_no_mid hs b h)

theorem bipolar_of_mid_mem_encLevels {s : Scheme} {bits : List Bit} (h : Level.mid ∈ encLevels s bits) : Bipolar s := by
  by_contra hs
  exact foldl_transition_keeps_no_mid hs bits (e := Encoder.powerOn.init) List.not_mem_nil h

end Machine

open Machine

/-- Settles O7: the table row by row, then the two facts about every scheme. -/
theorem schemeCodeTable : Obligations.SchemeCodeTable := by
  unfold Obligations.SchemeCodeTable
  exact ⟨rfl, rfl, rfl, rfl, rfl, rfl, rfl, rfl, decodeScheme_schemeCode, rfl, rfl, rfl, rfl, rfl, rfl,
    rfl, rfl, rfl, rfl, rfl, rfl, decode_sel_schemeCode⟩

/-- Settles O8: `bitval` is defined for the two symbols only, and one byte without a bit fails the validation of a pass. -/
theorem symbolCodes : Obligations.SymbolCodes := by
  unfold Obligations.SymbolCodes
  refine ⟨fun c => isSymbol_iff, rfl, rfl, fun c h0 h1 => ?invalid, rfl, rfl, fun p sc cs hfits hbad => ?pass⟩
  case invalid => exact ⟨bitval_eq_none h0 h1, by simp [decode, bitval_eq_none h0 h1]⟩
  case pass => exact passResponse_of_invalid sc hfits (valid_eq_false hbad)

/-- Settles O9: the three levels, and the two facts about every level. -/
theorem levelCodes : Obligations.LevelCodes := by
  unfold Obligations.LevelCodes
  exact ⟨rfl, rfl, rfl, rfl, rfl, rfl, Level.code_toNat, Level.ofCode_code⟩

/-- Settles O10: no level has code 3, and a scheme that is not bipolar keeps LV free of MID. -/
theorem levelsEmitted : Obligations.LevelsEmitted := by
  unfold Obligations.LevelsEmitted
  refine fun s bits l hl => ⟨l.code_ne_three, ?_⟩
  rintro rfl
  exact bipolar_of_mid_mem_encLevels hl

end Sys2Proof
end

section
/-! PROOFS. A pass from its START to its END (43_mux_and_commands.md R138, 50_memory_model.md R150): the state that START and the SYMs
leave, and the response that END gives there. -/

namespace Sys2Proof

/-- R140: what IN holds after the bytes `c` have been issued: those that fit. -/
def Params.stored (p : Params) (c : List Byte) : List Byte :=
  match p.maxBits with
  | none => c
  | some m => c.take m

section
variable {p : Params} {c : List Byte}

@[simp] theorem Params.stored_nil (p : Params) : p.stored [] = [] := by
  unfold Params.stored
  split <;> simp

@[simp] theorem Params.exceeds_zero (p : Params) : p.exceeds 0 = false := by
  unfold Params.exceeds
  split <;> simp

/-- A sequence that fits is stored whole. -/
theorem Params.stored_of_fits (h : p.exceeds c.length = false) : p.stored c = c := by
  cases hm : p.maxBits with
  | none => simp only [Params.stored, hm]
  | some m =>
    have hle : ¬ m < c.length := by simpa only [Params.exceeds, hm, decide_eq_false_iff_not] using h
    simp only [Params.stored, hm]
    exact List.take_of_length_le (Nat.le_of_not_lt hle)

/-- IN is at capacity exactly when the bytes issued so far and one more do not fit. -/
theorem Params.atCapacity_stored : p.atCapacity (p.stored c).length = p.exceeds (c.length + 1) := by
  cases hm : p.maxBits with
  | none => simp [Params.atCapacity, Params.exceeds, hm]
  | some m =>
    simp only [Params.atCapacity, Params.stored, Params.exceeds, hm, List.length_take, Bool.beq_eq_decide_eq,
      decide_eq_decide]
    omega

/-- A sequence that fits with one more byte fits. -/
theorem Params.exceeds_of_succ {n : Nat} (h : p.exceeds (n + 1) = false) : p.exceeds n = false := by
  cases hm : p.maxBits with
  | none => simp only [Params.exceeds, hm]
  | some m =>
    simp only [Params.exceeds, hm, decide_eq_false_iff_not] at h ⊢
    omega

/-- At capacity a further byte is discarded (R140). -/
theorem Params.stored_append_of_full (d : Byte) (h : p.exceeds (c.length + 1) = true) :
    p.stored (c ++ [d]) = p.stored c := by
  obtain ⟨m, hm, hlt⟩ := Params.exceeds_iff.1 h
  simp only [Params.stored, hm]
  exact List.take_append_of_le_length (Nat.le_of_lt_succ hlt)

/-- Below capacity a further byte is appended (R140). -/
theorem Params.stored_append_of_room (d : Byte) (h : p.exceeds (c.length + 1) = false) :
    p.stored (c ++ [d]) = p.stored c ++ [d] := by
  rw [Params.stored_of_fits (c := c ++ [d]) (by simpa using h), Params.stored_of_fits (Params.exceeds_of_succ h)]

end

namespace Machine

/-- R150: ERR_CAPACITY for the byte that no longer fits, ACK before. -/
theorem symResponse_eq (p : Params) (k : Nat) :
    symResponse p k = if p.exceeds (k + 1) then .err .capacity else .ack := by
  cases hm : p.maxBits with
  | none => simp only [symResponse, Params.exceeds, hm, Bool.false_eq_true, if_false]
  | some m =>
    have hroom : ¬ m < k + 1 ↔ k < m := by omega
    simp only [symResponse, Params.exceeds, hm, decide_eq_true_eq, ← hroom, ite_not]

theorem symResponses_succ (p : Params) (n : Nat) : symResponses p (n + 1) = symResponses p n ++ [symResponse p n] := by
  simp [symResponses, List.range_succ]

/-- A pass under the code `sel` is open and the bytes `c` have been issued to it. -/
structure InPass (p : Params) (sel : SelCode) (c : List Byte) (s : State) : Prop where
  params : s.params = p
  passOpen : s.passOpen = true
  sel : s.sel = sel
  inBuf : s.inBuf = p.stored c
  ovf : s.ovf = p.exceeds c.length

/-- What is still waiting at the port makes no difference to the pass. -/
theorem InPass.setPort {p : Params} {sel : SelCode} {c : List Byte} {s : State} (h : InPass p sel c s)
    (rest : List PortEvent) : InPass p sel c (s.setPort rest) :=
  ⟨h.params, h.passOpen, h.sel, h.inBuf, h.ovf⟩

/-- R139: START opens a pass with nothing issued to it. -/
theorem execStart_inPass (sss : SelCode) (s : State) :
    ∃ t, execStart sss s = .next t ∧ InPass s.params sss [] t ∧ t.responses = s.responses ++ [.ack] ∧ t.port = s.port :=
  ⟨_, rfl, ⟨rfl, rfl, rfl, by simp, by simp⟩, rfl, rfl⟩

/-- R140: SYM in an open pass issues one more byte to it. -/
theorem execSym_inPass (d : Byte) {p : Params} {sel : SelCode} {c : List Byte} {s : State} (h : InPass p sel c s) :
    ∃ t, execSym d s = .next t ∧ InPass p sel (c ++ [d]) t ∧ t.responses = s.responses ++ [symResponse p c.length] ∧
      t.port = s.port := by
  have hcap : s.params.atCapacity s.inputPos = p.exceeds (c.length + 1) := by
    rw [State.inputPos, h.params, h.inBuf, Params.atCapacity_stored]
  obtain ⟨hclosed, _⟩ | ⟨_, hfull, ht⟩ | ⟨_, hroom, ht⟩ := execSym_cases d s
  · simp [h.passOpen] at hclosed
  · rw [hcap] at hfull
    refine ⟨_, ht, ⟨h.params, h.passOpen, h.sel, ?_, ?_⟩, by simp [symResponse_eq, hfull], rfl⟩
    · simp [h.inBuf, Params.stored_append_of_full d hfull]
    · simp [hfull]
  · rw [hcap] at hroom
    refine ⟨_, ht, ⟨h.params, h.passOpen, h.sel, ?_, ?_⟩, by simp [symResponse_eq, hroom], rfl⟩
    · rw [State.respond_inBuf, State.memWrite_end, h.inBuf, Params.stored_append_of_room d hroom]
    · simp [h.ovf, hroom, Params.exceeds_of_succ hroom]

/-- A run of transitions does not read B. -/
theorem foldl_transition_with_bits (s : Scheme) (bits : List Bit) (e : Encoder) (x : List Bit) :
    bits.foldl (fun e b => transition s b e) { e with bits := x } =
      { bits.foldl (fun e b => transition s b e) e with bits := x } := by
  induction bits generalizing e with
  | nil => rfl
  | cons b bs ih => rw [List.foldl_cons, transition_with_bits, ih, List.foldl_cons]

/-- R135: an encode phase does not depend on the unit before it; B alone is kept from there. -/
theorem encodePhase_eq (s : Scheme) (bits : List Bit) (e : Encoder) :
    encodePhase s bits e = { encodePhase s bits Encoder.powerOn with bits := e.bits } :=
  foldl_transition_with_bits s bits Encoder.powerOn.init e.bits

theorem encodePhase_lv (s : Scheme) (bits : List Bit) (e : Encoder) : (encodePhase s bits e).lv = encLevels s bits := by
  rw [encodePhase_eq]
  rfl

/-- R150: END computes PASS of what has been issued. -/
theorem compute_inPass {p : Params} {sel : SelCode} {c : List Byte} {s : State} (h : InPass p sel c s) :
    (compute s).1 = passResponse p sel c := by
  obtain ⟨hs, hc⟩ | ⟨sc, hs, ⟨ho, hc⟩ | ⟨ho, hv, hc⟩ | ⟨ho, hv, hc⟩⟩ := compute_cases s
  · rw [h.sel] at hs
    simp [hc, passResponse, hs]
  · rw [h.sel] at hs
    rw [h.ovf] at ho
    simp [hc, passResponse, hs, ho]
  all_goals
    rw [h.sel] at hs
    rw [h.ovf] at ho
    have hin : s.inBuf = c := h.inBuf.trans (Params.stored_of_fits ho)
    rw [hin] at hv
    simp [hc, hin, passResponse, hs, ho, hv, encodePhase_lv, h.params]

/-- R141: END closes the pass, and its response is PASS of what has been issued. -/
theorem execEnd_inPass {p : Params} {sel : SelCode} {c : List Byte} {s : State} (h : InPass p sel c s) :
    ∃ t, execEnd s = .next t ∧ t.responses = s.responses ++ [passResponse p sel c] ∧ t.passOpen = false ∧ t.inBuf = [] ∧
      t.ovf = false ∧ t.port = s.port := by
  obtain ⟨hclosed, _⟩ | ⟨_, ht⟩ := execEnd_cases s
  · simp [h.passOpen] at hclosed
  · exact ⟨_, ht, by simp [compute_inPass h], rfl, rfl, rfl, rfl⟩

/-! Runs, from step to step (R48). -/

theorem run_succ {s t : State} (h : step s = .next t) (n : Nat) : run (n + 1) s = run n t := by
  simp [run, h]

theorem run_one {s t : State} (h : step s = .next t) : run 1 s = .next t := run_succ h 0

theorem run_add {m : Nat} {s t : State} (h : run m s = .next t) (n : Nat) : run (m + n) s = run n t := by
  induction m generalizing s with
  | zero =>
    cases h
    rw [Nat.zero_add]
  | succ m ih =>
    rw [Nat.succ_add]
    cases hs : step s with
    | next u =>
      rw [run_succ hs] at h ⊢
      exact ih h
    | fault r => simp [run, hs] at h
    | refused r => simp [run, hs] at h

/-- R150: the SYMs of a pass, one step each. -/
theorem run_syms {p : Params} {sel : SelCode} {s : State} (h : InPass p sel [] s) (c : List Byte) :
    ∀ rest, s.port = (c.map fun d => PortEvent.command (symWord d)) ++ rest →
      ∃ t, run c.length s = .next t ∧ InPass p sel c t ∧ t.responses = s.responses ++ symResponses p c.length ∧
        t.port = rest := by
  induction c using List.reverseRecOn with
  | nil => exact fun rest hp => ⟨s, rfl, h, by simp [symResponses], hp⟩
  | append_singleton c d ih =>
    intro rest hp
    obtain ⟨t, ht, hin, hr, hport⟩ := ih (.command (symWord d) :: rest) (by simpa using hp)
    obtain ⟨u, hu, huin, hur, huport⟩ := execSym_inPass d (hin.setPort rest)
    have hstep : step t = .next u := by
      rw [step_of_instr hport (decodeCommand_eq_sym_iff_word.2 rfl), exec_sym, hu]
    refine ⟨u, ?_, huin, ?_, huport⟩
    · rw [List.length_append, run_add ht]
      exact run_one hstep
    · rw [hur, State.setPort_responses, hr, List.length_append, List.append_assoc, ← symResponses_succ]
      rfl

/-- R150: the responses of a pass, issued to a block in any state, and the closed state after it. -/
theorem run_pass {s : State} {sel : SelCode} {c : List Byte} {rest : List PortEvent}
    (hp : s.port = passEvents sel c ++ rest) :
    ∃ t, run (c.length + 2) s = .next t ∧
      t.responses = s.responses ++ [.ack] ++ symResponses s.params c.length ++ [passResponse s.params sel c] ∧
      t.passOpen = false ∧ t.inBuf = [] ∧ t.ovf = false ∧ t.port = rest := by
  have hp' : s.port = .command (startWord sel) ::
      ((c.map fun d => PortEvent.command (symWord d)) ++ .command endWord :: rest) := by
    rw [hp]
    simp [passEvents, startWord, symWord, endEvent, endWord]
  obtain ⟨t₁, h₁, hin₁, hr₁, hport₁⟩ := execStart_inPass sel (s.setPort _)
  have hstart : step s = .next t₁ := by
    rw [step_of_instr hp' (decodeCommand_eq_start_iff_word.2 rfl), exec_start, h₁]
  obtain ⟨t₂, h₂, hin₂, hr₂, hport₂⟩ := run_syms hin₁ c _ hport₁
  obtain ⟨t₃, h₃, hr₃, hopen, hbuf, hovf, hport₃⟩ := execEnd_inPass (hin₂.setPort rest)
  have hend : step t₂ = .next t₃ := by
    rw [step_of_instr hport₂ (decodeCommand_eq_endPass_iff_word.2 rfl), exec_endPass, h₃]
  refine ⟨t₃, ?_, ?_, hopen, hbuf, hovf, hport₃⟩
  · rw [run_succ hstart, run_add h₂]
    exact run_one hend
  · rw [hr₃, State.setPort_responses, hr₂, hr₁]
    rfl

end Machine
end Sys2Proof
end

section
/-! PROOFS. The pseudo-instruction PASS (30_encoding.md R76): its text, its expansion and the response to its END. -/

namespace Sys2Proof.Machine

/-! Reading tokens (R75). -/

/-- The characters that end a token: the start of a comment and the blanks. -/
def separators : List Char := [';', ' ', '\t', '\r']

theorem tokens_nil (cur : List Char) : tokens cur [] = flushToken cur := rfl

theorem tokens_blank (cur cs : List Char) : tokens cur (' ' :: cs) = flushToken cur ++ tokens [] cs := by
  simp [tokens]

theorem flushToken_of_ne_nil {cur : List Char} (h : cur ≠ []) : flushToken cur = [cur] := by
  simp [flushToken, h]

/-- Characters that end no token join the token read so far. -/
theorem tokens_append {word : List Char} (h : ∀ c ∈ word, c ∉ separators) (cur rest : List Char) :
    tokens cur (word ++ rest) = tokens (cur ++ word) rest := by
  induction word generalizing cur with
  | nil => simp
  | cons c cs ih =>
    obtain ⟨hc, hcs⟩ := List.forall_mem_cons.1 h
    have hstep : tokens cur (c :: (cs ++ rest)) = tokens (cur ++ [c]) (cs ++ rest) := by
      simp_all [tokens, separators]
    rw [List.cons_append, hstep, ih hcs, List.append_assoc, List.singleton_append]

/-- A token with a blank after it is read on its own. -/
theorem tokens_word_blank {word : List Char} (h : ∀ c ∈ word, c ∉ separators) (hne : word ≠ []) (rest : List Char) :
    tokens [] (word ++ ' ' :: rest) = word :: tokens [] rest := by
  rw [tokens_append h, tokens_blank, List.nil_append, flushToken_of_ne_nil hne, List.singleton_append]

/-- The last token of a line. -/
theorem tokens_word {word : List Char} (h : ∀ c ∈ word, c ∉ separators) (hne : word ≠ []) : tokens [] word = [word] := by
  have := tokens_append h [] []
  rwa [List.append_nil, List.nil_append, tokens_nil, flushToken_of_ne_nil hne] at this

/-! Scheme names hold no separator, whatever their case (R75). -/

/-- The names of R75, in upper case. -/
def schemeNames : List (List Char) :=
  ["NRZ-L".toList, "NRZ-I".toList, "AMI".toList, "BIPOLAR-AMI".toList, "PSEUDOTERNARY".toList, "MANCHESTER".toList,
    "DIFF-MANCHESTER".toList, "DIFFERENTIAL-MANCHESTER".toList]

theorem toUpper_mem_schemeNames {name : List Char} {sc : Scheme} (h : schemeOfName name = some sc) :
    name.map Char.toUpper ∈ schemeNames := by
  rw [schemeOfName] at h
  generalize name.map Char.toUpper = n at h ⊢
  by_contra hnot
  simp only [schemeNames, List.mem_cons, List.not_mem_nil, or_false, not_or] at hnot
  obtain ⟨hNrzL, hNrzI, hAmi, hAmi', hPt, hMan, hDm, hDm'⟩ := hnot
  rw [if_neg hNrzL, if_neg hNrzI, if_neg (not_or.2 ⟨hAmi, hAmi'⟩), if_neg hPt, if_neg hMan,
    if_neg (not_or.2 ⟨hDm, hDm'⟩)] at h
  cases h

theorem schemeNames_no_separator : ∀ n ∈ schemeNames, ∀ c ∈ separators, c ∉ n := by
  simp [schemeNames, separators]

theorem toUpper_of_separator : ∀ c ∈ separators, c.toUpper = c := by
  simp [separators]

theorem schemeName_no_separator {name : List Char} {sc : Scheme} (h : schemeOfName name = some sc) :
    ∀ c ∈ name, c ∉ separators := by
  intro c hc hsep
  refine schemeNames_no_separator _ (toUpper_mem_schemeNames h) c hsep ?_
  rw [← toUpper_of_separator c hsep]
  exact List.mem_map_of_mem hc

/-! The quoted bit string of PASS. -/

/-- The character of a bit. -/
def bitChar (b : Bit) : Char := if b then '1' else '0'

theorem bitOfChar_bitChar (b : Bit) : bitOfChar (bitChar b) = some b := by cases b <;> decide

theorem bitChar_ne_quote (b : Bit) : bitChar b ≠ '"' := by cases b <;> decide

theorem bitChar_not_separator (b : Bit) : bitChar b ∉ separators := by cases b <;> decide

/-- Reading back a written bit string. -/
theorem quotedBits_written (bits : List Bit) : quotedBits (bits.map bitChar ++ ['"']) = some bits := by
  induction bits with
  | nil => rfl
  | cons b bs ih =>
    rw [List.map_cons, List.cons_append, quotedBits, if_neg (bitChar_ne_quote b), bitOfChar_bitChar, ih]

/-- The operand of PASS as written: the bits between quotes. -/
def quote (bits : List Bit) : List Char := '"' :: (bits.map bitChar ++ ['"'])

theorem quote_no_separator (bits : List Bit) : ∀ c ∈ quote bits, c ∉ separators := by
  have hquote : '"' ∉ separators := by decide
  simp only [quote, List.mem_cons, List.mem_append, List.mem_map, List.not_mem_nil, or_false]
  rintro c (rfl | ⟨b, -, rfl⟩ | rfl)
  · exact hquote
  · exact bitChar_not_separator b
  · exact hquote

theorem parsePass_written {name : List Char} {sc : Scheme} (h : schemeOfName name = some sc) (bits : List Bit) :
    parsePass (name ++ [',']) (quote bits) = some (.pass sc bits) := by
  simp [parsePass, quote, h, quotedBits_written]

/-- R76: a written PASS is read as itself. -/
theorem parseLine_pass {name : List Char} {sc : Scheme} (h : schemeOfName name = some sc) (bits : List Bit) :
    parseLine ("PASS".toList ++ ' ' :: ((name ++ [',']) ++ ' ' :: quote bits)) = some (some (.pass sc bits)) := by
  have hname : ∀ c ∈ name ++ [','], c ∉ separators := by
    simpa [or_imp, forall_and] using ⟨schemeName_no_separator h, (by decide : ',' ∉ separators)⟩
  have htokens : tokens [] ("PASS".toList ++ ' ' :: ((name ++ [',']) ++ ' ' :: quote bits)) =
      ["PASS".toList, name ++ [','], quote bits] := by
    rw [tokens_word_blank (by simp [separators]) (by simp), tokens_word_blank hname (by simp),
      tokens_word (quote_no_separator bits) (by simp [quote])]
  rw [parseLine, htokens]
  simp [parsePass_written h]

/-! The expansion (R76). -/

theorem assemble_pass (sc : Scheme) (bits : List Bit) :
    assemble (.pass sc bits) =
      assemble (.startScheme sc) ++ bits.flatMap (fun b => assemble (.symBit b)) ++ assemble .endPass := by
  simp [assemble, List.map_eq_flatMap]

/-- The words of PASS are the commands of the pass (R150). -/
theorem assemble_pass_events (sc : Scheme) (bits : List Bit) :
    (assemble (.pass sc bits)).map PortEvent.command = passEvents (schemeCode sc) (bits.map symbolOf) := by
  simp [assemble, passEvents, startWord, symWord, endWord, endEvent]

end Sys2Proof.Machine

namespace Sys2Proof

open Machine

/-- Settles O60: the text by its three tokens, the expansion by the words of its lines, and the last response by the
run of a pass. -/
theorem passPseudoInstruction : Obligations.PassPseudoInstruction := by
  unfold Obligations.PassPseudoInstruction
  refine fun sc bits => ⟨by simp [assemble], assemble_pass sc bits, fun name h => ?text, fun s rest hp => ?issued⟩
  case text =>
    have hline := parseLine_pass h bits
    simp only [quote, List.append_assoc, List.cons_append] at hline ⊢
    exact hline
  case issued =>
    rw [assemble_pass_events] at hp
    obtain ⟨t, hrun, hresponses, -⟩ := run_pass hp
    rw [List.length_map] at hrun
    exact ⟨t, hrun, by rw [hresponses, List.getLast?_concat]⟩

end Sys2Proof
end

-- ==== Proofs of the family 40_nrz ====
section
/-! PROOFS. The NRZ family (40_nrz.md R100 to R103): one rule per transition, the levels of a whole string, and the closed forms. -/

namespace Sys2Proof

/-- The spelling of the statements. -/
theorem Level.ofBit_eq_ite (b : Bit) : Level.ofBit b = if b then Level.high else Level.low := by
  cases b <;> rfl

theorem Level.ofBit_injective : Function.Injective Level.ofBit := by
  decide

/-- Two levels whose bits are `b` apart differ exactly when `b` is 1. -/
theorem Level.ofBit_xor_ne_iff (a b : Bit) : Level.ofBit (xor a b) ≠ Level.ofBit a ↔ b = true := by
  rw [Level.ofBit_injective.ne_iff]
  cases a <;> cases b <;> decide

namespace Machine

/-! The parity of a bit string (R103), taken bit by bit. -/

@[simp] theorem parity_nil : parity [] = false := rfl

theorem parity_concat (bits : List Bit) (b : Bit) : parity (bits ++ [b]) = xor (parity bits) b := by
  simp [parity]

theorem parity_take_succ {bits : List Bit} {i : Nat} {b : Bit} (h : bits[i]? = some b) :
    parity (bits.take (i + 1)) = xor (parity (bits.take i)) b := by
  rw [List.take_add_one, h, Option.toList_some, parity_concat]

theorem parity_replicate_false (n : Nat) : parity (List.replicate n false) = false := by
  induction n with
  | zero => rfl
  | succ n ih => rw [List.replicate_succ', parity_concat, ih, Bool.xor_false]

/-- R133: the last bit of a string is encoded last. -/
theorem encodePhase_concat (s : Scheme) (bits : List Bit) (b : Bit) (e : Encoder) :
    encodePhase s (bits ++ [b]) e = transition s b (encodePhase s bits e) := by
  simp [encodePhase]

/-- R71: a scheme that is not bipolar emits no MID. -/
theorem mid_notMem_encLevels {s : Scheme} (hs : ¬ Bipolar s) (bits : List Bit) : Level.mid ∉ encLevels s bits :=
  fun h => hs (bipolar_of_mid_mem_encLevels h)

/-! NRZ-L (R100, R101). -/

/-- The dispatcher runs row NRZ-L. -/
theorem exec_nrzL (b : Bit) (s : State) : exec (.nrzL b) s = .next (s.setEnc (tNrzL b s.enc)) := rfl

@[simp] theorem tNrzL_lv (b : Bit) (e : Encoder) : (tNrzL b e).lv = e.lv ++ [Level.ofBit b] := rfl

/-- R101: the levels are the bits, one by one. -/
theorem encLevels_nrzL (bits : List Bit) : encLevels .nrzL bits = bits.map Level.ofBit := by
  induction bits using List.reverseRecOn with
  | nil => rfl
  | append_singleton bits b ih =>
    rw [encLevels, encodePhase_concat, transition, tNrzL_lv, ← encLevels, ih, List.map_append, List.map_singleton]

theorem encLevels_nrzL_getElem? {bits : List Bit} {i : Nat} {b : Bit} (h : bits[i]? = some b) :
    (encLevels .nrzL bits)[i]? = some (Level.ofBit b) := by
  rw [encLevels_nrzL, List.getElem?_map, h, Option.map_some]

/-! NRZ-I (R102, R103). -/

/-- The dispatcher runs row NRZ-I. -/
theorem exec_nrzI (b : Bit) (s : State) : exec (.nrzI b) s = .next (s.setEnc (tNrzI b s.enc)) := rfl

/-- R102, in its second form: `NRZI_LEVEL <- NRZI_LEVEL ⊕ b`, then the new level is emitted. -/
theorem tNrzI_eq (b : Bit) (e : Encoder) :
    tNrzI b e = { e with
      nrziLevel := xor e.nrziLevel b
      lv := e.lv ++ [Level.ofBit (xor e.nrziLevel b)] } := by
  cases b <;> simp [tNrzI, Encoder.emit]

@[simp] theorem tNrzI_nrziLevel (b : Bit) (e : Encoder) : (tNrzI b e).nrziLevel = xor e.nrziLevel b := by
  rw [tNrzI_eq]

@[simp] theorem tNrzI_lv (b : Bit) (e : Encoder) :
    (tNrzI b e).lv = e.lv ++ [Level.ofBit (xor e.nrziLevel b)] := by
  rw [tNrzI_eq]

/-- R103: NRZI_LEVEL is the parity of the bits so far, from whatever unit the phase starts. -/
theorem encodePhase_nrzI_nrziLevel (bits : List Bit) (e : Encoder) :
    (encodePhase .nrzI bits e).nrziLevel = parity bits := by
  induction bits using List.reverseRecOn with
  | nil => rfl
  | append_singleton bits b ih => rw [encodePhase_concat, transition, tNrzI_nrziLevel, ih, parity_concat]

/-- One more bit emits the parity up to and including it. -/
theorem encLevels_nrzI_concat (bits : List Bit) (b : Bit) :
    encLevels .nrzI (bits ++ [b]) = encLevels .nrzI bits ++ [Level.ofBit (parity (bits ++ [b]))] := by
  rw [encLevels, encodePhase_concat, transition, tNrzI_lv, encodePhase_nrzI_nrziLevel, parity_concat, encLevels]

/-- R103: the levels are the parities of the bits up to and including each one. -/
theorem encLevels_nrzI (bits : List Bit) :
    encLevels .nrzI bits = (List.range bits.length).map fun i => Level.ofBit (parity (bits.take (i + 1))) := by
  induction bits using List.reverseRecOn with
  | nil => rfl
  | append_singleton bits b ih =>
    have hbefore : ∀ i ∈ List.range bits.length, (bits ++ [b]).take (i + 1) = bits.take (i + 1) := fun i hi =>
      List.take_append_of_le_length (List.mem_range.1 hi)
    have hwhole : (bits ++ [b]).take (bits.length + 1) = bits ++ [b] := List.take_of_length_le (by simp)
    rw [encLevels_nrzI_concat, ih, List.length_append, List.length_singleton, List.range_succ, List.map_append,
      List.map_singleton, hwhole]
    congr 1
    exact List.map_congr_left fun i hi => by rw [hbefore i hi]

theorem encLevels_nrzI_getElem? {bits : List Bit} {i : Nat} (h : i < bits.length) :
    (encLevels .nrzI bits)[i]? = some (Level.ofBit (parity (bits.take (i + 1)))) := by
  rw [encLevels_nrzI, List.getElem?_map, List.getElem?_range h, Option.map_some]

/-- R102: a string of zeros never inverts the initial LOW. -/
theorem encLevels_nrzI_replicate_false (n : Nat) :
    encLevels .nrzI (List.replicate n false) = List.replicate n Level.low := by
  induction n with
  | zero => rfl
  | succ n ih =>
    rw [List.replicate_succ', encLevels_nrzI_concat, ih, ← List.replicate_succ', parity_replicate_false]
    exact List.replicate_succ'.symm

/-- R103: sample `i` against the level of NRZI_LEVEL before bit `i`. -/
theorem encLevels_nrzI_ne_before_iff {bits : List Bit} {i : Nat} {b : Bit} (h : bits[i]? = some b) :
    (encLevels .nrzI bits)[i]? ≠ some (Level.ofBit (parity (bits.take i))) ↔ b = true := by
  have hi : i < bits.length := (List.getElem?_eq_some_iff.1 h).1
  rw [encLevels_nrzI_getElem? hi, parity_take_succ h, (Option.some_injective _).ne_iff, Level.ofBit_xor_ne_iff]

end Machine

open Machine

/-- Settles O12: the row by the rule of `T_NRZL`, no MID because NRZ-L is not bipolar, and the rest by evaluation. -/
theorem nrzLTransition : Obligations.NrzLTransition := by
  unfold Obligations.NrzLTransition
  refine ⟨fun b s => ?row, fun _ => rfl, rfl, rfl, rfl, mid_notMem_encLevels (by simp [Bipolar]), rfl⟩
  case row =>
    rw [exec_nrzL, ← Level.ofBit_eq_ite]
    rfl

/-- Settles O13: the row by the second form of `T_NRZI`, the zeros by induction on their number, no MID because NRZ-I is not
bipolar, and the rest by evaluation. -/
theorem nrzITransition : Obligations.NrzITransition := by
  unfold Obligations.NrzITransition
  refine ⟨fun b s => ?row, fun _ => rfl, rfl, fun _ => rfl, rfl, rfl, encLevels_nrzI_replicate_false, rfl,
    mid_notMem_encLevels (by simp [Bipolar]), rfl⟩
  case row =>
    rw [exec_nrzI, tNrzI_eq, ← Level.ofBit_eq_ite]
    rfl

/-- Settles O19: the encoding is the string, level for bit, and different bits have different levels. -/
theorem nrzLClosedForm : Obligations.NrzLClosedForm := by
  unfold Obligations.NrzLClosedForm
  refine fun bits => ⟨?length, fun i b h => ?sample, fun i a b ha hb => ?change⟩
  case length => rw [encLevels_nrzL, List.length_map]
  case sample => rw [encLevels_nrzL_getElem? h, Level.ofBit_eq_ite]
  case change =>
    rw [encLevels_nrzL_getElem? ha, encLevels_nrzL_getElem? hb, (Option.some_injective _).ne_iff,
      Level.ofBit_injective.ne_iff]

/-- Settles O20: sample and register are parities of the bits so far, and the parity changes exactly at a 1; before the first bit it
is 0, level LOW. -/
theorem nrzIClosedForm : Obligations.NrzIClosedForm := by
  unfold Obligations.NrzIClosedForm
  refine fun bits e => ⟨fun i hi => ⟨?sample, encodePhase_nrzI_nrziLevel _ e⟩, fun b h => ?first, fun i b h => ?later⟩
  case sample => rw [encLevels_nrzI_getElem? hi, Level.ofBit_eq_ite]
  case first => exact encLevels_nrzI_ne_before_iff h
  case later =>
    have hi : i < bits.length := Nat.lt_of_succ_lt (List.getElem?_eq_some_iff.1 h).1
    rw [encLevels_nrzI_getElem? hi]
    exact encLevels_nrzI_ne_before_iff h

end Sys2Proof
end

-- ==== Proofs of the family 41_bipolar ====
section
/-! PROOFS. The bipolar family (41_bipolar.md R110 to R113): both transitions as one rule about marks, the levels of Bipolar-AMI, and
Pseudoternary as Bipolar-AMI of the complement. -/

namespace Sys2Proof.Machine

/-- What both bipolar rows emit: a mark has the level of the polarity `p`, a bit that is no mark is MID. -/
def bipolarLevel (mark p : Bit) : Level := if mark then Level.ofBit p else .mid

@[simp] theorem bipolarLevel_true (p : Bit) : bipolarLevel true p = Level.ofBit p := rfl

@[simp] theorem bipolarLevel_false (p : Bit) : bipolarLevel false p = .mid := rfl

/-! The parity that the polarity follows (R111). -/

/-- The parity of a string is that of its number of 1s. -/
theorem parity_eq_decide_count (bits : List Bit) : parity bits = decide (bits.count true % 2 = 1) := by
  induction bits using List.reverseRecOn with
  | nil => rfl
  | append_singleton bits b ih =>
    rw [parity_concat, ih, List.count_append]
    cases b with
    | false => simp
    | true =>
      rw [List.count_singleton_self, Bool.xor_true, ← decide_not, decide_eq_decide]
      omega

theorem not_parity_eq_decide_count (bits : List Bit) : (!parity bits) = decide (bits.count true % 2 = 0) := by
  rw [parity_eq_decide_count, ← decide_not, decide_eq_decide]
  exact Nat.mod_two_ne_one

/-- Zeros leave the parity of the bits so far as it is. -/
theorem parity_take_of_zeros {bits : List Bit} {i j : Nat} (hij : i ≤ j)
    (hzeros : ∀ k, i ≤ k → k < j → bits[k]? = some false) : parity (bits.take j) = parity (bits.take i) := by
  induction j, hij using Nat.le_induction with
  | base => rfl
  | succ j hij ih =>
    rw [parity_take_succ (hzeros j hij j.lt_succ_self), Bool.xor_false]
    exact ih fun k hik hkj => hzeros k hik (Nat.lt_succ_of_lt hkj)

/-! Bipolar-AMI (R110, R111). -/

/-- The dispatcher runs row AMI. -/
theorem exec_ami (b : Bit) (s : State) : exec (.ami b) s = .next (s.setEnc (tAmi b s.enc)) := rfl

/-- R110: the marks are the 1s; the level is emitted from the polarity before the bit, and a mark inverts the polarity. -/
theorem tAmi_eq (b : Bit) (e : Encoder) :
    tAmi b e = { e with amiPol := xor e.amiPol b, lv := e.lv ++ [bipolarLevel b e.amiPol] } := by
  cases b <;> simp [tAmi, Encoder.emit]

/-- R111: AMI_POL after the bits so far, from whatever unit the phase starts. -/
theorem encodePhase_ami_amiPol (bits : List Bit) (e : Encoder) :
    (encodePhase .bipolarAmi bits e).amiPol = !parity bits := by
  induction bits using List.reverseRecOn with
  | nil => rfl
  | append_singleton bits b ih => rw [encodePhase_concat, transition, tAmi_eq, ih, parity_concat, Bool.not_xor]

theorem encLevels_ami_concat (bits : List Bit) (b : Bit) :
    encLevels .bipolarAmi (bits ++ [b]) = encLevels .bipolarAmi bits ++ [bipolarLevel b (!parity bits)] := by
  rw [encLevels, encodePhase_concat, transition, tAmi_eq, encodePhase_ami_amiPol, encLevels]

/-- R111: each bit gives one level, from the parity of the bits before it. -/
theorem encLevels_ami (bits : List Bit) :
    encLevels .bipolarAmi bits = bits.mapIdx fun i b => bipolarLevel b (!parity (bits.take i)) := by
  induction bits using List.reverseRecOn with
  | nil => rfl
  | append_singleton bits b ih =>
    rw [encLevels_ami_concat, ih, List.mapIdx_concat, List.take_left]
    congr 1
    exact List.mapIdx_eq_mapIdx_iff.2 fun i hi => by rw [List.take_append_of_le_length hi.le]

section
variable {bits : List Bit} {i j : Nat}

theorem encLevels_ami_of_zero (h : bits[i]? = some false) : (encLevels .bipolarAmi bits)[i]? = some .mid := by
  rw [encLevels_ami, List.getElem?_mapIdx, h, Option.map_some, bipolarLevel_false]

theorem encLevels_ami_of_one (h : bits[i]? = some true) :
    (encLevels .bipolarAmi bits)[i]? = some (Level.ofBit (!parity (bits.take i))) := by
  rw [encLevels_ami, List.getElem?_mapIdx, h, Option.map_some, bipolarLevel_true]

theorem encLevels_ami_of_one_of_even (h : bits[i]? = some true) (hm : (bits.take i).count true % 2 = 0) :
    (encLevels .bipolarAmi bits)[i]? = some .high := by
  rw [encLevels_ami_of_one h, not_parity_eq_decide_count, decide_eq_true hm, Level.ofBit]

theorem encLevels_ami_of_one_of_odd (h : bits[i]? = some true) (hm : (bits.take i).count true % 2 = 1) :
    (encLevels .bipolarAmi bits)[i]? = some .low := by
  rw [encLevels_ami_of_one h, parity_eq_decide_count, decide_eq_true hm, Bool.not_true, Level.ofBit]

/-- R111: the later of two successive marks has the other polarity, since one 1 more stands before it. -/
theorem encLevels_ami_successive_marks_ne (hij : i < j) (hi : bits[i]? = some true) (hj : bits[j]? = some true)
    (hzeros : ∀ k, i < k → k < j → bits[k]? = some false) :
    (encLevels .bipolarAmi bits)[i]? ≠ (encLevels .bipolarAmi bits)[j]? := by
  have hparity : parity (bits.take j) = !parity (bits.take i) := by
    rw [parity_take_of_zeros hij hzeros, parity_take_succ hi, Bool.xor_true]
  rw [encLevels_ami_of_one hi, encLevels_ami_of_one hj, hparity, (Option.some_injective _).ne_iff,
    Level.ofBit_injective.ne_iff]
  exact Bool.self_ne_not _

end

/-- R110: a string of zeros has no mark. -/
theorem encLevels_ami_replicate_false (n : Nat) :
    encLevels .bipolarAmi (List.replicate n false) = List.replicate n Level.mid := by
  induction n with
  | zero => rfl
  | succ n ih => rw [List.replicate_succ', encLevels_ami_concat, ih, bipolarLevel_false, List.replicate_succ']

/-! Pseudoternary (R112, R113). -/

/-- The dispatcher runs row PSEUDOTERNARY. -/
theorem exec_pseudoternary (b : Bit) (s : State) :
    exec (.pseudoternary b) s = .next (s.setEnc (tPt b s.enc)) := rfl

/-- R112: the rule of `T_AMI` on PT_POL, with the complement of the bit. -/
theorem tPt_eq (b : Bit) (e : Encoder) :
    tPt b e = { e with ptPol := xor e.ptPol (!b), lv := e.lv ++ [bipolarLevel (!b) e.ptPol] } := by
  cases b <;> simp [tPt, Encoder.emit]

/-- PT_POL after the bits so far is AMI_POL after their complements. -/
theorem encodePhase_pseudoternary_ptPol (bits : List Bit) (e : Encoder) :
    (encodePhase .pseudoternary bits e).ptPol = !parity (bits.map not) := by
  induction bits using List.reverseRecOn with
  | nil => rfl
  | append_singleton bits b ih =>
    rw [encodePhase_concat, transition, tPt_eq, ih, List.map_append, List.map_singleton, parity_concat, Bool.not_xor]

/-- R113: `ENC_PT(B) = ENC_AMI(comp(B))`. -/
theorem encLevels_pseudoternary (bits : List Bit) :
    encLevels .pseudoternary bits = encLevels .bipolarAmi (bits.map not) := by
  induction bits using List.reverseRecOn with
  | nil => rfl
  | append_singleton bits b ih =>
    rw [encLevels, encodePhase_concat, transition, tPt_eq, encodePhase_pseudoternary_ptPol, ← encLevels, ih,
      List.map_append, List.map_singleton, encLevels_ami_concat]

/-- R112: a string of ones has no mark. -/
theorem encLevels_pseudoternary_replicate_true (n : Nat) :
    encLevels .pseudoternary (List.replicate n true) = List.replicate n Level.mid := by
  rw [encLevels_pseudoternary, List.map_replicate, Bool.not_true, encLevels_ami_replicate_false]

/-- The complement of a bit stands at the place of the bit. -/
theorem getElem?_map_not {bits : List Bit} {i : Nat} {b : Bit} (h : bits[i]? = some b) :
    (bits.map not)[i]? = some (!b) := by
  rw [List.getElem?_map, h, Option.map_some]

/-- The 1s before a place of the complement are the 0s before it (R113). -/
theorem count_true_take_map_not (bits : List Bit) (i : Nat) :
    ((bits.map not).take i).count true = (bits.take i).count false := by
  rw [← List.map_take]
  exact List.count_map_of_injective _ not Bool.not_injective false

end Sys2Proof.Machine

namespace Sys2Proof

open Machine

/-- Settles O14: the row by the rule of `T_AMI` for each bit, the zeros by induction on their number, and the rest by evaluation. -/
theorem amiTransition : Obligations.AmiTransition := by
  unfold Obligations.AmiTransition
  refine ⟨fun s => ?one, fun s => ?zero, fun _ => rfl, rfl, fun _ => rfl, rfl, rfl, encLevels_ami_replicate_false, rfl, rfl⟩
  case one =>
    rw [exec_ami, tAmi_eq, Bool.xor_true, bipolarLevel_true, Level.ofBit_eq_ite]
    rfl
  case zero =>
    rw [exec_ami, tAmi_eq, Bool.xor_false, bipolarLevel_false]
    rfl

/-- Settles O15: the row by the rule of `T_PT` for each bit, the ones as the zeros of Bipolar-AMI, and the rest by evaluation. -/
theorem pseudoternaryTransition : Obligations.PseudoternaryTransition := by
  unfold Obligations.PseudoternaryTransition
  refine ⟨fun s => ?zero, fun s => ?one, fun _ => rfl, rfl, fun _ => rfl, rfl, encLevels_pseudoternary_replicate_true,
    rfl, rfl⟩
  case zero =>
    rw [exec_pseudoternary, tPt_eq, Bool.not_false, Bool.xor_true, bipolarLevel_true, Level.ofBit_eq_ite]
    rfl
  case one =>
    rw [exec_pseudoternary, tPt_eq, Bool.not_true, Bool.xor_false, bipolarLevel_false]
    rfl

/-- Settles O21: level and polarity are given by the parity of the 1s before a bit, and a mark changes that parity. -/
theorem amiClosedForm : Obligations.AmiClosedForm := by
  unfold Obligations.AmiClosedForm
  refine fun bits e => ⟨fun i => encLevels_ami_of_zero, fun i => encLevels_ami_of_one_of_even,
    fun i => encLevels_ami_of_one_of_odd, fun i _ => ?polarity, fun i j => encLevels_ami_successive_marks_ne⟩
  case polarity => rw [encodePhase_ami_amiPol, not_parity_eq_decide_count]

/-- Settles O22: Pseudoternary is Bipolar-AMI of the complement, so its closed form is that of R111 there. -/
theorem pseudoternaryClosedForm : Obligations.PseudoternaryClosedForm := by
  unfold Obligations.PseudoternaryClosedForm
  refine fun bits => ⟨encLevels_pseudoternary bits, fun i h => ?mid, fun i h hz => ?high, fun i h hz => ?low⟩
  all_goals rw [encLevels_pseudoternary]
  case mid => exact encLevels_ami_of_zero (getElem?_map_not h)
  case high => exact encLevels_ami_of_one_of_even (getElem?_map_not h) (by rwa [count_true_take_map_not])
  case low => exact encLevels_ami_of_one_of_odd (getElem?_map_not h) (by rwa [count_true_take_map_not])

end Sys2Proof
end

-- ==== Proofs of the family 42_manchester ====
section
/-! PROOFS. The Manchester family (42_manchester.md R120 to R123): both transitions as one rule about half-bits, Manchester half-bit
by half-bit, and Differential-Manchester as Manchester of the DM_PREV sequence. -/

namespace Sys2Proof

/-- The first half of a bit, in the spelling of the statements. -/
theorem Level.ofBit_not_eq_ite (b : Bit) : Level.ofBit (!b) = if b then Level.low else Level.high := by
  cases b <;> rfl

/-- Two levels whose bits are `b` apart are the same exactly when `b` is 0. -/
theorem Level.ofBit_xor_eq_iff (a b : Bit) : Level.ofBit (xor a b) = Level.ofBit a ↔ b = false := by
  rw [← not_iff_not, ← ne_eq, Level.ofBit_xor_ne_iff, Bool.not_eq_false]

/-- A level against the complement of the level whose bit is `b` apart. -/
theorem Level.ofBit_xor_ne_not_iff (a b : Bit) : Level.ofBit (xor a b) ≠ Level.ofBit (!a) ↔ b = false := by
  rw [← Bool.not_xor_not, Level.ofBit_xor_ne_iff, Bool.not_eq_true']

namespace Machine

/-- What both Manchester rows emit for the value `p`: its complement and then itself, as levels. -/
def halves (p : Bit) : List Level := [Level.ofBit (!p), Level.ofBit p]

/-- The spelling of the statements. -/
theorem halves_eq_ite (p : Bit) :
    halves p = if p then [Level.low, Level.high] else [Level.high, Level.low] := by
  cases p <;> rfl

/-! Manchester (R120, R121). -/

/-- The dispatcher runs row MANCHESTER. -/
theorem exec_manchester (b : Bit) (s : State) : exec (.manchester b) s = .next (s.setEnc (tMan b s.enc)) := rfl

/-- R120: `T_MAN` emits the halves of the bit. -/
theorem tMan_eq (b : Bit) (e : Encoder) : tMan b e = { e with lv := e.lv ++ halves b } := by
  cases b <;> simp [tMan, Encoder.emit, halves, Level.ofBit]

theorem encLevels_manchester (bits : List Bit) : encLevels .manchester bits = bits.flatMap halves := by
  induction bits using List.reverseRecOn with
  | nil => rfl
  | append_singleton bits b ih =>
    rw [encLevels, encodePhase_concat, transition, tMan_eq, ← encLevels, ih, List.flatMap_append, List.flatMap_singleton]

theorem encLevels_manchester_cons (b : Bit) (bits : List Bit) :
    encLevels .manchester (b :: bits) = halves b ++ encLevels .manchester bits := by
  rw [encLevels_manchester, encLevels_manchester, List.flatMap_cons]

theorem encLevels_manchester_length (bits : List Bit) : (encLevels .manchester bits).length = 2 * bits.length := by
  induction bits with
  | nil => rfl
  | cons b bits ih =>
    rw [encLevels_manchester_cons, List.length_append, ih, List.length_cons, Nat.mul_succ, Nat.add_comm]
    rfl

section
variable {bits : List Bit} {i : Nat} {b : Bit}

/-- R121: samples `2i` and `2i + 1` are the halves of bit `i`. -/
theorem encLevels_manchester_getElem? (h : bits[i]? = some b) {j : Nat} (hj : j < 2) :
    (encLevels .manchester bits)[2 * i + j]? = (halves b)[j]? := by
  induction bits generalizing i with
  | nil => cases h
  | cons c bits ih =>
    rw [encLevels_manchester_cons]
    cases i with
    | zero =>
      cases h
      rw [Nat.mul_zero, Nat.zero_add]
      exact List.getElem?_append_left hj
    | succ i =>
      rw [Nat.mul_succ, Nat.add_right_comm]
      exact ih h

theorem encLevels_manchester_first_half (h : bits[i]? = some b) :
    (encLevels .manchester bits)[2 * i]? = some (Level.ofBit (!b)) :=
  encLevels_manchester_getElem? h (j := 0) Nat.two_pos

theorem encLevels_manchester_second_half (h : bits[i]? = some b) :
    (encLevels .manchester bits)[2 * i + 1]? = some (Level.ofBit b) :=
  encLevels_manchester_getElem? h Nat.one_lt_two

end

/-! Differential-Manchester (R122, R123). -/

/-- The dispatcher runs row DIFF-MANCHESTER. -/
theorem exec_diffManchester (b : Bit) (s : State) :
    exec (.diffManchester b) s = .next (s.setEnc (tDm b s.enc)) := rfl

/-- R122, in its second form: `DM_PREV <- DM_PREV ⊕ b`, and the halves of the new value are emitted. -/
theorem tDm_eq (b : Bit) (e : Encoder) :
    tDm b e = { e with
      dmPrev := xor e.dmPrev b
      lv := e.lv ++ halves (xor e.dmPrev b) } := by
  cases b <;> cases hp : e.dmPrev <;> simp [tDm, hp, Encoder.emit, halves, Level.ofBit]

/-- R123: DM_PREV after the bits so far, from whatever unit the phase starts. -/
theorem encodePhase_diffManchester_dmPrev (bits : List Bit) (e : Encoder) :
    (encodePhase .diffManchester bits e).dmPrev = !parity bits := by
  induction bits using List.reverseRecOn with
  | nil => rfl
  | append_singleton bits b ih => rw [encodePhase_concat, transition, tDm_eq, ih, parity_concat, Bool.not_xor]

/-- R123: the sequence `p_0, p_1, …` of the values DM_PREV takes, by `p_i = p_{i-1} ⊕ b_i`. -/
def dmPrevs (bits : List Bit) : List Bit := bits.mapIdx fun i b => xor (!parity (bits.take i)) b

theorem dmPrevs_length (bits : List Bit) : (dmPrevs bits).length = bits.length := List.length_mapIdx

theorem dmPrevs_getElem? {bits : List Bit} {i : Nat} (h : i < bits.length) :
    (dmPrevs bits)[i]? = some (!parity (bits.take (i + 1))) := by
  have hb : bits[i]? = some bits[i] := List.getElem?_eq_getElem h
  rw [dmPrevs, List.getElem?_mapIdx, hb, Option.map_some, parity_take_succ hb, Bool.not_xor]

theorem dmPrevs_concat (bits : List Bit) (b : Bit) :
    dmPrevs (bits ++ [b]) = dmPrevs bits ++ [xor (!parity bits) b] := by
  rw [dmPrevs, List.mapIdx_concat, List.take_left]
  congr 1
  exact List.mapIdx_eq_mapIdx_iff.2 fun i hi => by rw [List.take_append_of_le_length hi.le]

/-- R123: each bit emits the halves of the value that DM_PREV takes at it, so the encoding is Manchester of those values. -/
theorem encLevels_diffManchester (bits : List Bit) :
    encLevels .diffManchester bits = encLevels .manchester (dmPrevs bits) := by
  induction bits using List.reverseRecOn with
  | nil => rfl
  | append_singleton bits b ih =>
    rw [encLevels, encodePhase_concat, transition, tDm_eq, encodePhase_diffManchester_dmPrev, ← encLevels, ih,
      dmPrevs_concat, encLevels_manchester, encLevels_manchester, List.flatMap_append, List.flatMap_singleton]

section
variable {bits : List Bit} {i : Nat}

theorem encLevels_diffManchester_first_half (h : i < bits.length) :
    (encLevels .diffManchester bits)[2 * i]? = some (Level.ofBit (parity (bits.take (i + 1)))) := by
  rw [encLevels_diffManchester, encLevels_manchester_first_half (dmPrevs_getElem? h), Bool.not_not]

theorem encLevels_diffManchester_second_half (h : i < bits.length) :
    (encLevels .diffManchester bits)[2 * i + 1]? = some (Level.ofBit (!parity (bits.take (i + 1)))) := by
  rw [encLevels_diffManchester, encLevels_manchester_second_half (dmPrevs_getElem? h)]

/-- R123: every bit has a mid-bit transition. -/
theorem encLevels_diffManchester_halves_ne (h : i < bits.length) :
    (encLevels .diffManchester bits)[2 * i]? ≠ (encLevels .diffManchester bits)[2 * i + 1]? := by
  rw [encLevels_diffManchester_first_half h, encLevels_diffManchester_second_half h,
    (Option.some_injective _).ne_iff, Level.ofBit_injective.ne_iff]
  exact Bool.self_ne_not _

/-- R123: the first half of bit `i` against the level of DM_PREV before it. -/
theorem encLevels_diffManchester_ne_before_iff {b : Bit} (h : bits[i]? = some b) :
    (encLevels .diffManchester bits)[2 * i]? ≠ some (Level.ofBit (!parity (bits.take i))) ↔ b = false := by
  have hi : i < bits.length := (List.getElem?_eq_some_iff.1 h).1
  rw [encLevels_diffManchester_first_half hi, parity_take_succ h, (Option.some_injective _).ne_iff,
    Level.ofBit_xor_ne_not_iff]

/-- R123: the mid-bit direction of a bit, which its first half tells, against that of the bit before. -/
theorem encLevels_diffManchester_same_direction_iff {b : Bit} (h : bits[i + 1]? = some b) :
    (encLevels .diffManchester bits)[2 * (i + 1)]? = (encLevels .diffManchester bits)[2 * i]? ↔ b = false := by
  have hi : i + 1 < bits.length := (List.getElem?_eq_some_iff.1 h).1
  rw [encLevels_diffManchester_first_half hi, encLevels_diffManchester_first_half (Nat.lt_of_succ_lt hi),
    parity_take_succ h, Option.some_inj, Level.ofBit_xor_eq_iff]

end

end Machine

open Machine

/-- Settles O16: the row by the rule of `T_MAN`, no MID because Manchester is not bipolar, and the rest by evaluation. -/
theorem manchesterTransition : Obligations.ManchesterTransition := by
  unfold Obligations.ManchesterTransition
  refine ⟨fun b s => ?row, fun _ => rfl, rfl, rfl, rfl, rfl, mid_notMem_encLevels (by simp [Bipolar]), rfl⟩
  case row =>
    rw [exec_manchester, tMan_eq, ← halves_eq_ite]
    rfl

/-- Settles O17: the row by the second form of `T_DM`, no MID because Differential-Manchester is not bipolar, and the rest by
evaluation. -/
theorem diffManchesterTransition : Obligations.DiffManchesterTransition := by
  unfold Obligations.DiffManchesterTransition
  refine ⟨fun b s => ?row, fun _ => rfl, rfl, fun _ => rfl, rfl, rfl, rfl, rfl, rfl,
    mid_notMem_encLevels (by simp [Bipolar]), rfl⟩
  case row =>
    rw [exec_diffManchester, tDm_eq, ← halves_eq_ite]
    rfl

/-- Settles O23: each bit gives its two halves, and the level `a` before a boundary differs from the complement of `b` after it
exactly when `a` is `b`. -/
theorem manchesterClosedForm : Obligations.ManchesterClosedForm := by
  unfold Obligations.ManchesterClosedForm
  refine fun bits => ⟨encLevels_manchester_length bits, fun i b h => ⟨?first, ?second⟩, fun i a b ha hb => ?boundary⟩
  case first => rw [encLevels_manchester_first_half h, Level.ofBit_not_eq_ite]
  case second => rw [encLevels_manchester_second_half h, Level.ofBit_eq_ite]
  case boundary =>
    rw [encLevels_manchester_second_half ha, encLevels_manchester_first_half hb, (Option.some_injective _).ne_iff,
      Level.ofBit_injective.ne_iff, Bool.ne_not]

/-- Settles O24: samples and register are given by the parity of the bits so far, which a 0 keeps and a 1 changes; before the first
bit DM_PREV is 1, level HIGH. -/
theorem diffManchesterClosedForm : Obligations.DiffManchesterClosedForm := by
  unfold Obligations.DiffManchesterClosedForm
  refine fun bits e => ⟨?length, fun i hi => ⟨?first, ?second, encodePhase_diffManchester_dmPrev _ e,
    encLevels_diffManchester_halves_ne hi⟩, fun b h => ?initial, fun i b h => ⟨?start, ?direction⟩⟩
  case length => rw [encLevels_diffManchester, encLevels_manchester_length, dmPrevs_length]
  case first => rw [encLevels_diffManchester_first_half hi, Level.ofBit_eq_ite]
  case second => rw [encLevels_diffManchester_second_half hi, Level.ofBit_not_eq_ite]
  case initial => exact encLevels_diffManchester_ne_before_iff h
  case start =>
    have hi : i < bits.length := Nat.lt_of_succ_lt (List.getElem?_eq_some_iff.1 h).1
    rw [encLevels_diffManchester_second_half hi]
    exact encLevels_diffManchester_ne_before_iff h
  case direction => exact encLevels_diffManchester_same_direction_iff h

end Sys2Proof
end

-- ==== Proofs of the family 43_mux_and_commands ====
section
/-! PROOFS. Validation, the multiplexer and the encoder over a string (43_mux_and_commands.md R130 to R136). -/

namespace Sys2Proof

/-- R130: validation looks at every byte. -/
theorem valid_iff {c : List Byte} : valid c = true ↔ ∀ x ∈ c, x = 0x30#8 ∨ x = 0x31#8 := by
  simp only [valid, List.all_eq_true, isSymbol_iff]

/-- R130: a valid sequence is the symbols of its bits, position by position. -/
theorem symbols_bitsOf {c : List Byte} (h : valid c = true) : (bitsOf c).map symbolOf = c := by
  induction c with
  | nil => rfl
  | cons x xs ih =>
    obtain ⟨⟨b, hb⟩, hxs⟩ := valid_cons.1 h
    rw [bitsOf_cons hb, List.map_cons, ih hxs, ← bitval_eq_some hb]

theorem bitsOf_length {c : List Byte} (h : valid c = true) : (bitsOf c).length = c.length := by
  rw [← List.length_map (f := symbolOf), symbols_bitsOf h]

/-- R130: bit `k` is the value of byte `k`. -/
theorem bitsOf_getElem? {cs : List Byte} (h : valid cs = true) {k : Nat} {x : Byte} (hk : cs[k]? = some x) :
    (bitsOf cs)[k]? = bitval x ∧ (bitval x).isSome = true := by
  rw [← symbols_bitsOf h, List.getElem?_map, Option.map_eq_some_iff] at hk
  obtain ⟨b, hb, rfl⟩ := hk
  exact ⟨by rw [bitval_symbolOf, hb], by rw [bitval_symbolOf, Option.isSome_some]⟩

theorem Params.exceeds_eq_false_iff {p : Params} {n : Nat} : p.exceeds n = false ↔ ∀ m, p.maxBits = some m → n ≤ m := by
  rw [← Bool.not_eq_true, Params.exceeds_iff]
  simp only [not_exists, not_and, Nat.not_lt]

/-- R67: only the code of a scheme decodes to it. -/
theorem eq_schemeCode_of_decodeScheme {c : SelCode} {sc : Scheme} (h : decodeScheme c = some sc) : c = schemeCode sc := by
  revert c
  cases sc <;> decide

namespace Machine

/-- R130, read by read: IN is valid exactly when every read gives one of the two symbols. -/
theorem valid_inBuf_iff {s : State} :
    valid s.inBuf = true ↔ ∀ k, k < s.inputPos → s.memRead k = some 0x30#8 ∨ s.memRead k = some 0x31#8 := by
  rw [valid_iff, List.forall_mem_iff_getElem]
  refine forall₂_congr fun k hk => ?_
  rw [State.memRead, List.getElem?_eq_getElem hk, Option.some_inj, Option.some_inj]

/-! The multiplexer (R132). -/

/-- R132: the dispatcher runs the transition that the multiplexer routes. -/
theorem exec_transitionInstr (s : Scheme) (b : Bit) (st : State) :
    exec (transitionInstr s b) st = .next (st.setEnc (transition s b st.enc)) := by
  cases s <;> rfl

/-- R132: a transition touches no register but the one routed for its scheme. -/
theorem transition_reg_of_not_routed {s : Scheme} {r : EncReg} (h : schemeReg s ≠ some r) (b : Bit) (e : Encoder) :
    (transition s b e).reg r = e.reg r := by
  cases s
  all_goals
    simp only [transition, tNrzL, tNrzI_eq, tAmi_eq, tPt_eq, tMan_eq, tDm_eq]
    cases r <;> simp [schemeReg, Encoder.reg] at h ⊢

@[simp] theorem Encoder.init_reg (e : Encoder) (r : EncReg) : e.init.reg r = r.initial := by
  cases r <;> rfl

/-- R132: of the routed registers only that of NRZ-I starts at 0. -/
theorem initial_of_schemeReg {s : Scheme} {r : EncReg} (h : schemeReg s = some r) : r.initial = decide (s ≠ .nrzI) := by
  cases s <;> cases h <;> rfl

theorem spb_eq (s : Scheme) : spb s = if s = .manchester ∨ s = .diffManchester then 2 else 1 := by
  cases s <;> rfl

/-- R166: every label box is as wide as one bit. -/
theorem layout_boxes_width {p : Params} {s : Scheme} {bits : List Bit} {lv : List Level} :
    ∀ x ∈ (layout p s bits lv).boxes, x.width = spb s := by
  intro x hx
  obtain ⟨q, -, rfl⟩ := List.mem_map.1 hx
  rfl

/-! The encoder over a string (R133 to R136). -/

/-- R133: the registers take their initial values and LV is emptied before the first bit. -/
theorem encodePhase_nil (s : Scheme) (e : Encoder) : encodePhase s [] e = e.init := rfl

@[simp] theorem encLevels_nil (s : Scheme) : encLevels s [] = [] := rfl

/-- R134. -/
theorem encLevels_length (s : Scheme) (bits : List Bit) : (encLevels s bits).length = bits.length * spb s := by
  induction bits using List.reverseRecOn with
  | nil => rw [encLevels_nil, List.length_nil, List.length_nil, Nat.zero_mul]
  | append_singleton bits b ih =>
    obtain ⟨out, hout, hlv, -⟩ := transition_emits s b (encodePhase s bits Encoder.powerOn)
    rw [encLevels, encodePhase_concat, hlv, List.length_append, ← encLevels, ih, hout, List.length_append,
      List.length_singleton, Nat.succ_mul]

/-- R135: the registers after an encode phase do not depend on the unit before it. -/
theorem encodePhase_reg (s : Scheme) (bits : List Bit) (e : Encoder) (r : EncReg) :
    (encodePhase s bits e).reg r = (encodePhase s bits Encoder.powerOn).reg r := by
  rw [encodePhase_eq]
  cases r <;> rfl

/-- R135, R42: once LV and B are discarded, nothing in the unit depends on what it held before. -/
theorem discard_encodePhase (s : Scheme) (bits : List Bit) (e : Encoder) :
    (encodePhase s bits e).discard = (encodePhase s bits Encoder.powerOn).discard := by
  rw [encodePhase_eq]
  rfl

theorem encodeChecked_of_valid (s : Scheme) {c : List Byte} (hv : valid c = true) :
    encodeChecked s c = .ok (encLevels s (bitsOf c)) := by
  simp [encodeChecked, hv]

theorem encodeChecked_of_invalid (s : Scheme) {c : List Byte} (hv : valid c = false) :
    encodeChecked s c = .error .invalidSymbol := by
  simp [encodeChecked, hv]

end Machine
end Sys2Proof
end

section
/-! PROOFS. The three commands, the RESET event and PASS, case by case (43_mux_and_commands.md R137 to R142). -/

namespace Sys2Proof.Machine

/-- R73: the RESULT record of the valid bytes `c` under the scheme `sc`. -/
def resultOf (p : Params) (sc : Scheme) (c : List Byte) : Result :=
  { scheme := sc, levels := encLevels sc (bitsOf c), plot := layout p sc (bitsOf c) (encLevels sc (bitsOf c)) }

/-! `COMPUTE`, in the order of its checks (R137). -/

section
variable {s : State} {sc : Scheme}

theorem compute_of_reserved (hs : decodeScheme s.sel = none) : compute s = (.err .reservedScheme, s.enc) := by
  simp [compute, hs]

theorem compute_of_ovf (hs : decodeScheme s.sel = some sc) (ho : s.ovf = true) :
    compute s = (.err .capacity, s.enc) := by
  simp [compute, hs, ho]

theorem compute_of_invalid (hs : decodeScheme s.sel = some sc) (ho : s.ovf = false) (hv : valid s.inBuf = false) :
    compute s = (.err .invalidSymbol, s.enc) := by
  simp [compute, hs, ho, hv]

/-- R137: after all checks, the result and the unit are those of an encode phase, whatever the unit held. -/
theorem compute_of_valid (hs : decodeScheme s.sel = some sc) (ho : s.ovf = false) (hv : valid s.inBuf = true) :
    compute s = (.ok (resultOf s.params sc s.inBuf), (encodePhase sc (bitsOf s.inBuf) s.enc).discard) := by
  simp [compute, hs, ho, hv, encodePhase_lv, discard_encodePhase, resultOf]

/-- An invalid IN is never encoded: no check of `COMPUTE` that fails touches the encoder unit, and none answers OK (R130). -/
theorem compute_not_ok (hv : valid s.inBuf = false) : (compute s).2 = s.enc ∧ ∀ r, (compute s).1 ≠ .ok r := by
  obtain ⟨-, h⟩ | ⟨_, -, ⟨-, h⟩ | ⟨-, -, h⟩ | ⟨-, hvalid, -⟩⟩ := compute_cases s
  · simp [h]
  · simp [h]
  · simp [h]
  · simp [hv] at hvalid

/-! END (R141) and SYM (R140), by whether a pass is open. -/

theorem execEnd_of_closed (ho : s.passOpen = false) : execEnd s = .next (s.raise .sequence) := by
  simp [execEnd, ho]

theorem execEnd_of_open (ho : s.passOpen = true) :
    execEnd s = .next (((s.setEnc (compute s).2).closePass).respond (compute s).1) := by
  simp [execEnd, ho]

/-- R141: a check that fails closes the pass with its error and changes nothing else. -/
theorem execEnd_of_error {x : ErrorCode} (ho : s.passOpen = true) (hc : compute s = (.err x, s.enc)) :
    execEnd s = .next (s.closePass.raise x) := by
  rw [execEnd_of_open ho, hc]
  rfl

/-- R141: a pass that meets all checks is closed with its result. -/
theorem execEnd_of_valid (hopen : s.passOpen = true) (hs : decodeScheme s.sel = some sc) (ho : s.ovf = false)
    (hv : valid s.inBuf = true) :
    execEnd s = .next (((s.setEnc (encodePhase sc (bitsOf s.inBuf) s.enc).discard).closePass).respond
      (.ok (resultOf s.params sc s.inBuf))) := by
  rw [execEnd_of_open hopen, compute_of_valid hs ho hv]

/-- R141: END leaves no pass open. -/
theorem passOpen_of_execEnd {t : State} (h : execEnd s = .next t) : t.passOpen = false := by
  obtain ⟨hclosed, ht⟩ | ⟨-, ht⟩ := execEnd_cases s
  · cases ht.symm.trans h
    exact hclosed
  · cases ht.symm.trans h
    rfl

theorem execSym_of_closed (d : Byte) (ho : s.passOpen = false) : execSym d s = .next (s.raise .sequence) := by
  simp [execSym, ho]

end

/-- R41: a write at the end of IN, as a change of the whole state. -/
theorem State.memWrite_end_eq (s : State) (c : Byte) :
    s.memWrite s.inputPos c = { s with inBuf := s.inBuf ++ [c] } := by
  rw [← State.memWrite_end]
  rfl

/-- R140: once IN is full, a SYM after a SYM gives ERR_CAPACITY again, and changes nothing else. -/
theorem execSym_after_full (d : Byte) {s : State} (ho : s.passOpen = true) (hc : s.params.maxBits = some s.inputPos) :
    execSym d ((s.setOvf true).raise .capacity) = .next (((s.setOvf true).raise .capacity).raise .capacity) :=
  execSym_of_full d (s := (s.setOvf true).raise .capacity) ho hc

/-- R142: RESET closes and discards the pass, and leaves the responses, the parameters and the port. -/
theorem resetEvent_closes (s : State) :
    ∃ t, resetEvent s = .next t ∧ t.passOpen = false ∧ t.inBuf = [] ∧ t.ovf = false ∧ t.responses = s.responses ∧
      t.params = s.params ∧ t.port = s.port :=
  ⟨_, rfl, rfl, rfl, rfl, rfl, rfl, rfl⟩

/-! `PASS(sel, C)`, in the order of its checks (R138). -/

section
variable {p : Params} {sel : SelCode} {sc : Scheme} {c : List Byte}

theorem passResponse_of_reserved (hs : decodeScheme sel = none) : passResponse p sel c = .err .reservedScheme := by
  simp [passResponse, hs]

theorem passResponse_of_exceeds (hs : decodeScheme sel = some sc) (hc : p.exceeds c.length = true) :
    passResponse p sel c = .err .capacity := by
  simp [passResponse, hs, hc]

theorem passResponse_of_valid (hs : decodeScheme sel = some sc) (hc : p.exceeds c.length = false)
    (hv : valid c = true) : passResponse p sel c = .ok (resultOf p sc c) := by
  simp [passResponse, hs, hc, hv, resultOf]

end

end Sys2Proof.Machine
end

section
/-! PROOFS. What the host cannot observe (43_mux_and_commands.md R142, 70_reset_and_hazards.md R200): two blocks that are the same to
the host stay the same under every step, and so answer every run alike. -/

namespace Sys2Proof.Machine

/-- Both outcomes are next states, and these are the same to the host. -/
def SameOutcome (o o' : Outcome) : Prop := ∃ s t, o = .next s ∧ o' = .next t ∧ s.SameToHost t

section
variable {s t : State}

theorem State.SameToHost.setPort (h : s.SameToHost t) (rest : List PortEvent) :
    (s.setPort rest).SameToHost (t.setPort rest) :=
  ⟨h.params, h.passOpen, h.ovf, h.inBuf, rfl, h.responses, h.sel⟩

theorem State.SameToHost.respond (h : s.SameToHost t) (r : Response) : (s.respond r).SameToHost (t.respond r) :=
  ⟨h.params, h.passOpen, h.ovf, h.inBuf, h.port, congrArg (· ++ [r]) h.responses, h.sel⟩

theorem State.SameToHost.raise (h : s.SameToHost t) (x : ErrorCode) : (s.raise x).SameToHost (t.raise x) :=
  h.respond (.err x)

/-- A closed pass hides SEL and the whole encoder unit. -/
theorem State.SameToHost.closePass (h : s.SameToHost t) (e e' : Encoder) :
    ((s.setEnc e).closePass).SameToHost ((t.setEnc e').closePass) :=
  ⟨h.params, rfl, rfl, rfl, h.port, h.responses, fun hopen => nomatch hopen⟩

theorem State.SameToHost.inputPos (h : s.SameToHost t) : s.inputPos = t.inputPos :=
  congrArg List.length h.inBuf

/-- The response of `COMPUTE` reads the parameters, SEL, OVF and IN only. -/
theorem compute_response_congr (h : s.SameToHost t) (hopen : s.passOpen = true) : (compute s).1 = (compute t).1 := by
  have hsel := h.sel hopen
  obtain ⟨hs, hc⟩ | ⟨sc, hs, ⟨ho, hc⟩ | ⟨ho, hv, hc⟩ | ⟨ho, hv, -⟩⟩ := compute_cases s
  · rw [hc, compute_of_reserved (hsel ▸ hs)]
  · rw [hc, compute_of_ovf (hsel ▸ hs) (h.ovf ▸ ho)]
  · rw [hc, compute_of_invalid (hsel ▸ hs) (h.ovf ▸ ho) (h.inBuf ▸ hv)]
  · rw [compute_of_valid hs ho hv, compute_of_valid (hsel ▸ hs) (h.ovf ▸ ho) (h.inBuf ▸ hv), h.params, h.inBuf]

theorem execStart_same (sss : SelCode) (h : s.SameToHost t) : SameOutcome (execStart sss s) (execStart sss t) :=
  ⟨_, _, rfl, rfl, h.params, rfl, rfl, rfl, h.port, congrArg (· ++ [Response.ack]) h.responses, fun _ => rfl⟩

theorem execSym_same (d : Byte) (h : s.SameToHost t) : SameOutcome (execSym d s) (execSym d t) := by
  have hcap : s.params.atCapacity s.inputPos = t.params.atCapacity t.inputPos := by rw [h.params, h.inputPos]
  obtain ⟨ho, hs⟩ | ⟨ho, hc, hs⟩ | ⟨ho, hc, hs⟩ := execSym_cases d s
  · exact ⟨_, _, hs, execSym_of_closed d (h.passOpen ▸ ho), h.raise .sequence⟩
  · have ht := execSym_of_full d (h.passOpen ▸ ho) (Params.atCapacity_iff.1 (hcap ▸ hc))
    have hfull : (s.setOvf true).SameToHost (t.setOvf true) :=
      ⟨h.params, h.passOpen, rfl, h.inBuf, h.port, h.responses, h.sel⟩
    exact ⟨_, _, hs, ht, hfull.raise .capacity⟩
  · have hroom : t.params.maxBits ≠ some t.inputPos := by
      rw [Ne, ← Params.atCapacity_iff, ← hcap, hc]
      exact Bool.false_ne_true
    have hstored : (s.memWrite s.inputPos d).SameToHost (t.memWrite t.inputPos d) :=
      ⟨h.params, h.passOpen, h.ovf, by rw [State.memWrite_end, State.memWrite_end, h.inBuf], h.port, h.responses, h.sel⟩
    exact ⟨_, _, hs, execSym_of_room d (h.passOpen ▸ ho) hroom, hstored.respond .ack⟩

theorem execEnd_same (h : s.SameToHost t) : SameOutcome (execEnd s) (execEnd t) := by
  obtain ⟨ho, hs⟩ | ⟨ho, hs⟩ := execEnd_cases s
  · exact ⟨_, _, hs, execEnd_of_closed (h.passOpen ▸ ho), h.raise .sequence⟩
  · refine ⟨_, _, hs, execEnd_of_open (h.passOpen ▸ ho), ?_⟩
    rw [compute_response_congr h ho]
    exact (h.closePass _ _).respond _

theorem resetEvent_same (h : s.SameToHost t) : SameOutcome (resetEvent s) (resetEvent t) :=
  ⟨_, _, rfl, rfl, h.params, rfl, rfl, rfl, h.port, h.responses, fun hopen => nomatch hopen⟩

theorem step_of_empty (h : s.port = []) : step s = .next s := by
  simp [step, h]

/-- One step keeps two blocks the same to the host, whatever the event. -/
theorem step_same (h : s.SameToHost t) : SameOutcome (step s) (step t) := by
  cases hs : s.port with
  | nil => exact ⟨s, t, step_of_empty hs, step_of_empty (h.port ▸ hs), h⟩
  | cons event rest =>
    have ht : t.port = event :: rest := h.port ▸ hs
    have h' := h.setPort rest
    cases event with
    | reset =>
      rw [step_of_reset hs, step_of_reset ht]
      exact resetEvent_same h'
    | command w =>
      obtain ⟨sss, hw⟩ | ⟨d, hw⟩ | hw | ⟨why, hw⟩ := decodeCommand_cases w
      · rw [step_of_instr hs hw, step_of_instr ht hw]
        exact execStart_same sss h'
      · rw [step_of_instr hs hw, step_of_instr ht hw]
        exact execSym_same d h'
      · rw [step_of_instr hs hw, step_of_instr ht hw]
        exact execEnd_same h'
      · exact ⟨_, _, step_of_reserved hs hw, step_of_reserved ht hw, h'.raise .reservedCommand⟩

/-- R200: every run keeps two blocks the same to the host. -/
theorem run_same (n : Nat) (h : s.SameToHost t) : SameOutcome (run n s) (run n t) := by
  induction n generalizing s t with
  | zero => exact ⟨s, t, rfl, rfl, h⟩
  | succ n ih =>
    obtain ⟨s', t', hs, ht, h'⟩ := step_same h
    rw [run_succ hs, run_succ ht]
    exact ih h'

/-- R201: with no pass open, SEL and the encoder unit are nothing to the host. -/
theorem State.SameToHost.of_closed (hclosed : s.passOpen = false) (sel : SelCode) (e : Encoder) :
    s.SameToHost { s with sel := sel, enc := e } :=
  ⟨rfl, rfl, rfl, rfl, rfl, rfl, fun hopen => nomatch hclosed.symm.trans hopen⟩

end

end Sys2Proof.Machine
end

section
/-! PROOFS. The statements of 43_mux_and_commands.md, and R150 of 50_memory_model.md. -/

namespace Sys2Proof

open Machine

/-- Settles O48: the run of a pass, START, then the SYMs one by one, then END. -/
theorem commandsComputePass : Obligations.CommandsComputePass := by
  unfold Obligations.CommandsComputePass
  exact fun s sel c rest hp => run_pass hp

/-- Settles O25: the clauses by scheme, and an END that meets all checks answers the result of the scheme of SEL. -/
theorem muxRouting : Obligations.MuxRouting := by
  unfold Obligations.MuxRouting
  refine ⟨exec_transitionInstr, fun s b e r h => transition_reg_of_not_routed h b e, fun s e r h => ?initial,
    fun b => ⟨rfl, rfl, rfl, rfl, rfl, rfl⟩, ⟨rfl, rfl, rfl, rfl, rfl, rfl⟩, spb_eq, fun s sc hopen hs ho hv => ?ok⟩
  case initial => rw [encodePhase_nil, Encoder.init_reg, initial_of_schemeReg h]
  case ok =>
    rw [exec_endPass, execEnd_of_valid hopen hs ho hv]
    exact ⟨_, _, rfl, rfl, rfl, rfl, layout_boxes_width⟩

/-- Settles O27: each transition emits as many levels as the arity. -/
theorem lengthLaw : Obligations.LengthLaw := by
  unfold Obligations.LengthLaw
  exact encLevels_length

/-- Settles O28: an encode phase keeps B alone from the unit before it, and B is neither LV nor a register. -/
theorem encodePurity : Obligations.EncodePurity := by
  unfold Obligations.EncodePurity
  exact fun s bits e e' => ⟨encodePhase_lv s bits e, fun r => by rw [encodePhase_reg, encodePhase_reg s bits e']⟩

/-- Settles O29: a valid IN is the symbols of its bits, and with an invalid one END either has no pass or fails a check. -/
theorem validationIsWholeString : Obligations.ValidationIsWholeString := by
  unfold Obligations.ValidationIsWholeString
  refine ⟨valid_nil, fun s => ⟨valid_inBuf_iff, fun hv => ⟨bitsOf_length hv, fun k c hk => bitsOf_getElem? hv hk⟩,
    fun hv => ?invalid⟩⟩
  case invalid =>
    obtain ⟨henc, hnot⟩ := compute_not_ok hv
    rw [exec_endPass]
    obtain ⟨-, h⟩ | ⟨-, h⟩ := execEnd_cases s
    · exact ⟨_, h, rfl, fun r => by simp⟩
    · exact ⟨_, h, henc, fun r => by simpa using hnot r⟩

/-- Settles O32: SYM with no pass, at capacity and below it. -/
theorem symAppends : Obligations.SymAppends := by
  unfold Obligations.SymAppends
  intro d s
  have hroom (ho : s.passOpen = true) (hc : s.params.maxBits ≠ some s.inBuf.length) :
      exec (.sym d) s = .next { s with inBuf := s.inBuf ++ [d], responses := s.responses ++ [.ack] } := by
    rw [exec_sym, execSym_of_room d ho hc, State.memWrite_end_eq]
    rfl
  refine ⟨fun ho => execSym_of_closed d ho, fun ho hc => ⟨execSym_of_full d ho hc, fun d' t ht => ?later⟩, hroom,
    fun ho hc => hroom ho (by simp [hc])⟩
  case later =>
    rw [exec_sym, execSym_of_full d ho hc] at ht
    cases ht
    exact execSym_after_full d' ho hc

/-- Settles O33: END with no pass, then the three checks of `COMPUTE` in their order, then the result; the corner cases are uses
of these. -/
theorem endPassByCases : Obligations.EndPassByCases := by
  unfold Obligations.EndPassByCases
  refine fun s => ⟨execEnd_of_closed, fun hopen hs => execEnd_of_error hopen (compute_of_reserved hs),
    fun sc hopen hs ho => execEnd_of_error hopen (compute_of_ovf hs ho),
    fun sc hopen hs ho hbad => execEnd_of_error hopen (compute_of_invalid hs ho (valid_eq_false hbad)),
    fun sc hopen hs ho hall => execEnd_of_valid hopen hs ho (valid_iff.2 hall),
    fun t ht => execEnd_of_closed (passOpen_of_execEnd ht), fun sc hopen hs ho hin => ?empty, fun hopen hsel ho hin => ?worked⟩
  case empty =>
    refine ⟨_, _, execEnd_of_valid hopen hs ho (hin ▸ valid_nil), rfl, ?_⟩
    rw [hin]
    exact ⟨rfl, rfl, rfl⟩
  case worked =>
    have hs : decodeScheme s.sel = some .nrzI := by rw [hsel]; rfl
    refine ⟨_, _, execEnd_of_valid hopen hs ho (hin ▸ rfl), rfl, ?_⟩
    rw [hin]
    rfl

/-- Settles O40: RESET leaves no pass open, so that SEL and the encoder unit are nothing to the host in any run after it. -/
theorem resetEvent : Obligations.ResetEvent := by
  unfold Obligations.ResetEvent
  intro s rest hp
  obtain ⟨t, ht, hclosed, hin, hovf, hresponses, hparams, hport⟩ := resetEvent_closes (s.setPort rest)
  refine ⟨t, (step_of_reset hp).trans ht, hclosed, hin, hovf, hresponses, hparams, hport, fun sel e n => ?_⟩
  obtain ⟨u, u', hu, hu', h⟩ := run_same n (State.SameToHost.of_closed hclosed sel e)
  exact ⟨u, u', hu, hu', h.responses⟩

/-- Settles O49: the checks of PASS in their order. -/
theorem passByCases : Obligations.PassByCases := by
  unfold Obligations.PassByCases
  refine fun p sel c => ⟨passResponse_of_reserved, fun sc m hs hm hlt => ?capacity, fun sc hs hfits hbad => ?invalid,
    fun sc hs hfits hall => passResponse_of_valid hs (Params.exceeds_eq_false_iff.2 hfits) (valid_iff.2 hall)⟩
  case capacity => exact passResponse_of_exceeds hs (Params.exceeds_iff.2 ⟨m, hm, hlt⟩)
  case invalid =>
    rw [eq_schemeCode_of_decodeScheme hs]
    exact passResponse_of_invalid sc (Params.exceeds_eq_false_iff.2 hfits) (valid_eq_false hbad)

/-- Settles O26: the phase of the empty string, and one bit more. -/
theorem encodeIsFold : Obligations.EncodeIsFold := by
  unfold Obligations.EncodeIsFold
  exact ⟨encodePhase_nil, encodePhase_concat, fun _ _ => rfl⟩

/-- Settles O30: by whether the sequence is valid. -/
theorem encodeContract : Obligations.EncodeContract := by
  unfold Obligations.EncodeContract
  exact fun s c => ⟨fun hall => encodeChecked_of_valid s (valid_iff.2 hall),
    fun hbad => encodeChecked_of_invalid s (valid_eq_false hbad), encodeChecked_of_valid s valid_nil⟩

/-- Settles O31: the writes of START, none of which depends on the pass before; the worked example is a step on its word. -/
theorem startOpensPass : Obligations.StartOpensPass := by
  unfold Obligations.StartOpensPass
  refine ⟨fun sss s => exec_start sss s, fun a b s => ⟨_, _, _, rfl, rfl, rfl, rfl⟩, fun p => ?worked⟩
  case worked =>
    have hw : decodeCommand 0x4100#16 = .instr (.start 0b001#3) := by decide
    exact ⟨_, (step_of_instr rfl hw).trans (exec_start _ _), rfl, rfl, rfl, rfl, rfl⟩

/-- Settles O42: the two answers of the decoder; every word is answered. -/
theorem stepRunsDecoded : Obligations.StepRunsDecoded := by
  unfold Obligations.StepRunsDecoded
  refine ⟨fun s w rest i hp hw => step_of_instr hp hw, fun s w rest why hp hw => step_of_reserved hp hw,
    fun s w rest hp => ?_⟩
  obtain ⟨-, -, t, ht, -⟩ := step_answers hp
  exact ⟨t, ht⟩

end Sys2Proof
end


-- ==== Proofs of the family 44_layout ====
section
/-! PROOFS. The extended level sequence, the step path and the wave it describes, and the bounds of a plot (44_layout.md R161 to
R165). -/

namespace Sys2Proof

/-- R6 and R165: what admissible parameters obey. -/
theorem Params.wf_iff {p : Params} :
    p.wf = true ↔ p.maxBitsOk = true ∧ p.yMin ≤ 0 ∧ 1 ≤ p.labelY0 ∧ 0 < p.labelH ∧ p.labelY0 + p.labelH ≤ p.yMax := by
  simp only [Params.wf, Bool.and_eq_true, decide_eq_true_eq, and_assoc]

namespace Machine

/-! The extended level sequence (R161). -/

theorem extend_eq_concat {lv : List Level} {last : Level} (h : lv.getLast? = some last) : extend lv = lv ++ [last] := by
  rw [extend, h, Option.toList_some]

theorem extend_getElem?_of_lt {lv : List Level} {k : Nat} (h : k < lv.length) : (extend lv)[k]? = lv[k]? :=
  List.getElem?_append_left h

/-- The one element more repeats the last level. -/
theorem extend_getElem?_length (lv : List Level) : (extend lv)[lv.length]? = lv.getLast? := by
  rw [extend, List.getElem?_append_right (le_refl _), Nat.sub_self]
  cases lv.getLast? <;> rfl

/-- R163: the two last elements are equal, which is why no edge stands at `N`. -/
theorem extend_getElem?_length_eq_before {lv : List Level} {k : Nat} (h : k + 1 = lv.length) :
    (extend lv)[k + 1]? = (extend lv)[k]? := by
  rw [h, extend_getElem?_length, extend_getElem?_of_lt (by omega), List.getLast?_eq_getElem?, ← h, Nat.add_sub_cancel]

/-! The step path, the wave and its edges (R162, R163). -/

section

variable {p : Params} {s : Scheme} {bits : List Bit} {lv : List Level}

/-- R162: the levels along the path are the extended sequence. -/
theorem layout_path_level (k : Nat) : (layout p s bits lv).path[k]?.map PathPoint.h = (extend lv)[k]? := by
  rw [layout, stepPath_getElem?, Option.map_map]
  cases (extend lv)[k]? <;> rfl

/-- R163: the wave at `t` is the element of the extended sequence at `⌊t⌋`. -/
theorem layout_waveAt {t : Rat} (h0 : 0 ≤ t) (hN : t ≤ lv.length) :
    (layout p s bits lv).waveAt t = (extend lv)[⌊t⌋.toNat]? := by
  rw [Plot.waveAt, if_pos ⟨h0, hN⟩, layout_path_level]

theorem layout_edgeAt_succ (k : Nat) :
    (layout p s bits lv).edgeAt (k + 1) = true ↔ (extend lv)[k]? ≠ (extend lv)[k + 1]? ∧ k + 1 ≤ lv.length := by
  rw [Plot.edgeAt, Bool.and_eq_true, decide_eq_true_eq, decide_eq_true_eq, layout_path_level, layout_path_level]
  rfl

/-- R163: an edge stands exactly where two successive samples differ; at `N` the extension repeats the last one. -/
theorem layout_edgeAt_iff (k : Nat) :
    (layout p s bits lv).edgeAt k = true ↔ 1 ≤ k ∧ k + 1 ≤ lv.length ∧ lv[k - 1]? ≠ lv[k]? := by
  cases k with
  | zero => simp [Plot.edgeAt]
  | succ k =>
    rw [layout_edgeAt_succ, Nat.add_sub_cancel]
    obtain hlt | heq | hgt := lt_trichotomy (k + 1) lv.length
    · rw [extend_getElem?_of_lt hlt, extend_getElem?_of_lt (Nat.lt_of_succ_lt hlt)]
      exact ⟨fun ⟨hne, _⟩ => ⟨Nat.succ_pos k, hlt, hne⟩, fun ⟨_, _, hne⟩ => ⟨hne, hlt.le⟩⟩
    · exact iff_of_false (fun ⟨hne, _⟩ => hne (extend_getElem?_length_eq_before heq).symm) (by omega)
    · exact iff_of_false (by omega) (by omega)

/-- R163: no edge stands at `N`. -/
theorem layout_edgeAt_length : (layout p s bits lv).edgeAt lv.length = false := by
  rw [← Bool.not_eq_true, layout_edgeAt_iff]
  omega

end

end Machine

open Machine

/-- Settles O53: the path is the extended sequence, each element with its index as its time. -/
theorem stepPathPoints : Obligations.StepPathPoints := by
  unfold Obligations.StepPathPoints
  intro p s bits lv last hlast
  have hpath : (layout p s bits lv).path = stepPath lv := rfl
  rw [hpath, ← extend_eq_concat hlast]
  refine ⟨?_, fun k _ => stepPath_getElem? lv k⟩
  rw [stepPath_length, extend_eq_concat hlast, List.length_append, List.length_singleton]

/-- Settles O54: below `N` the floor of the time is a sample's index, at `N` it is the index of the repeated last level. -/
theorem holdConvention : Obligations.HoldConvention := by
  unfold Obligations.HoldConvention
  refine fun p s bits lv _ => ⟨fun t h0 ht => ?below, ?atN, layout_edgeAt_iff, layout_edgeAt_length⟩
  case below =>
    have hfloor : ⌊t⌋.toNat < lv.length := by rwa [Int.floor_toNat, Nat.floor_lt h0]
    rw [layout_waveAt h0 ht.le, extend_getElem?_of_lt hfloor]
  case atN => rw [layout_waveAt (Nat.cast_nonneg _) (le_refl _), Int.floor_natCast, Int.toNat_natCast, extend_getElem?_length]

/-- Settles O55: the layout copies the parameters, and admissible parameters obey their constraints. -/
theorem plotBounds : Obligations.PlotBounds := by
  unfold Obligations.PlotBounds
  intro p s bits lv hwf
  obtain ⟨-, hconstraints⟩ := Params.wf_iff.1 hwf
  exact ⟨rfl, rfl, rfl, rfl, rfl, rfl, hconstraints⟩

end Sys2Proof
end

section
/-! PROOFS. The label boxes (44_layout.md R166 to R168) and the counts of a plot (R169, R170). -/

namespace Sys2Proof

/-- R69: the symbol of a bit, in the spelling of the statements. -/
theorem symbolOf_eq_ite (b : Bit) : symbolOf b = if b then 0x31#8 else 0x30#8 := by
  cases b <;> rfl

theorem spb_pos (s : Scheme) : 0 < spb s := by
  cases s <;> decide

namespace Machine

variable {p : Params} {s : Scheme} {bits : List Bit} {lv : List Level}

/-! The label boxes (R166 to R168). -/

theorem layout_boxes_getElem? (i : Nat) :
    (layout p s bits lv).boxes[i]? = (bits[i]?).map (labelBox (spb s) i) :=
  labelBoxes_getElem? (spb s) bits i

theorem layout_boxes_length : (layout p s bits lv).boxes.length = bits.length :=
  labelBoxes_length (spb s) bits

/-- R166: whatever the bit, box `i` starts at `i × spb`. -/
theorem start_of_layout_boxes_getElem? {i : Nat} {x : LabelBox} (h : (layout p s bits lv).boxes[i]? = some x) :
    x.start = i * spb s := by
  rw [layout_boxes_getElem?] at h
  obtain ⟨b, -, rfl⟩ := Option.map_eq_some_iff.1 h
  rfl

/-- R166: box `i` ends where box `i + 1` starts, if there is one. -/
theorem end_of_layout_boxes_getElem? {i : Nat} {x : LabelBox} (h : (layout p s bits lv).boxes[i]? = some x) :
    x.start + x.width = (i + 1) * spb s := by
  rw [start_of_layout_boxes_getElem? h, layout_boxes_width x (List.mem_of_getElem? h), Nat.succ_mul]

/-- R166: the last box ends at `n × spb`. -/
theorem end_of_layout_boxes_getLast? {x : LabelBox} (h : (layout p s bits lv).boxes.getLast? = some x) :
    x.start + x.width = bits.length * spb s := by
  rw [List.getLast?_eq_getElem?, layout_boxes_length] at h
  have hpos : 0 < bits.length := by
    rw [← layout_boxes_length (p := p) (s := s) (lv := lv)]
    exact List.length_pos_of_mem (List.mem_of_getElem? h)
  rw [end_of_layout_boxes_getElem? h, Nat.sub_add_cancel hpos]

/-! Counts (R170). -/

theorem encLevels_ne_nil (s : Scheme) (h : bits ≠ []) : encLevels s bits ≠ [] := by
  rw [← List.length_pos_iff, encLevels_length]
  exact Nat.mul_pos (List.length_pos_iff.2 h) (spb_pos s)

/-- R170: `N + 1` points when there is a bit. -/
theorem layout_encLevels_path_length (h : bits ≠ []) :
    (layout p s bits (encLevels s bits)).path.length = bits.length * spb s + 1 := by
  rw [layout, stepPath_length, extend_length (encLevels_ne_nil s h), encLevels_length]

end Machine

open Machine

/-- Settles O56: box `i` begins at `i × spb` and ends at `(i + 1) × spb`; the last of these ends is the number of levels. -/
theorem labelBoxes : Obligations.LabelBoxes := by
  unfold Obligations.LabelBoxes
  refine fun p s bits => ⟨fun lv i b hb => ?box, fun lv => layout_boxes_length, fun x hx => ?first, fun i x y hx hy => ?next,
    fun x hx => ?last⟩
  case box =>
    rw [layout_boxes_getElem?, hb, Option.map_some, ← symbolOf_eq_ite]
    rfl
  case first => rw [start_of_layout_boxes_getElem? hx, Nat.zero_mul]
  case next => rw [start_of_layout_boxes_getElem? hy, end_of_layout_boxes_getElem? hx]
  case last =>
    have hxMax : (layout p s bits (encLevels s bits)).xMax = (encLevels s bits).length := rfl
    rw [end_of_layout_boxes_getLast? hx, hxMax, encLevels_length]

/-- Settles O57: the empty input has no levels to extend; one bit has as many levels as the arity. -/
theorem emptyPlotAndCounts : Obligations.EmptyPlotAndCounts := by
  unfold Obligations.EmptyPlotAndCounts
  refine ⟨fun p s => ?empty, fun p s bits => ⟨layout_encLevels_path_length, fun h => ?none, layout_boxes_length, fun b =>
    ⟨?single, layout_boxes_length⟩⟩⟩
  case empty =>
    rw [encLevels_nil]
    rfl
  case none =>
    subst h
    rw [encLevels_nil]
    rfl
  case single =>
    rw [layout_encLevels_path_length (List.cons_ne_nil b []), List.length_singleton, Nat.one_mul, spb_eq]
    split <;> rfl

end Sys2Proof
end

-- ==== Proofs of the family 60_exceptions ====
section
/-! PROOFS. The errors (60_exceptions.md R181 to R188): every way a command word can get an error, said once with the state it
leaves, and which of them each code has. -/

namespace Sys2Proof.Machine

/-! The errors of `COMPUTE` (R137, R186). -/

section
variable {s t : State} {d : Decoded} {e : ErrorCode}

/-- R182, R186, R188: the three errors of `COMPUTE`; with each of them it has left the encoder unit alone. -/
theorem compute_of_error (h : (compute s).1 = .err e) :
    compute s = (.err e, s.enc) ∧ (e = .reservedScheme ∨ e = .capacity ∨ e = .invalidSymbol) := by
  obtain ⟨-, hc⟩ | ⟨_, -, ⟨-, hc⟩ | ⟨-, -, hc⟩ | ⟨-, -, hc⟩⟩ := compute_cases s
  all_goals
    rw [hc] at h ⊢
    cases h
  · exact ⟨rfl, .inl rfl⟩
  · exact ⟨rfl, .inr (.inl rfl)⟩
  · exact ⟨rfl, .inr (.inr rfl)⟩

/-- R181, R186: of the checks of `COMPUTE`, the one for an overflow comes after that for the scheme alone. -/
theorem compute_capacity_iff : (compute s).1 = .err .capacity ↔ s.ovf = true ∧ (decodeScheme s.sel).isSome = true := by
  obtain ⟨hs, hc⟩ | ⟨_, hs, ⟨ho, hc⟩ | ⟨ho, -, hc⟩ | ⟨ho, -, hc⟩⟩ := compute_cases s
  · simp [hc, hs]
  all_goals simp [hc, hs, ho]

/-! The ways to an error (R181 to R185, R188). -/

/-- From the state `s`, a command word that decodes to `d` gets the error `e` and leaves the state `t`. -/
inductive Fails (s : State) : Decoded → ErrorCode → State → Prop
  /-- R184: SYM with no pass open. -/
  | symClosed (b : Byte) (ho : s.passOpen = false) : Fails s (.instr (.sym b)) .sequence (s.raise .sequence)
  /-- R184: END with no pass open. -/
  | endClosed (ho : s.passOpen = false) : Fails s (.instr .endPass) .sequence (s.raise .sequence)
  /-- R181: SYM to a full IN. -/
  | symFull (b : Byte) (ho : s.passOpen = true) (hc : s.params.maxBits = some s.inputPos) :
    Fails s (.instr (.sym b)) .capacity ((s.setOvf true).raise .capacity)
  /-- R181 to R183: END when a check of `COMPUTE` fails. -/
  | endError {e : ErrorCode} (ho : s.passOpen = true) (hc : (compute s).1 = .err e) :
    Fails s (.instr .endPass) e (s.closePass.raise e)
  /-- R185: a reserved word. -/
  | reserved (why : Reject) : Fails s (.reserved why) .reservedCommand (s.raise .reservedCommand)

theorem Fails.responses (h : Fails s d e t) : t.responses = s.responses ++ [.err e] := by
  cases h <;> rfl

theorem Fails.step_eq {w : CommandWord} {rest : List PortEvent} (hp : s.port = .command w :: rest)
    (h : Fails (s.setPort rest) (decodeCommand w) e t) : step s = .next t := by
  generalize hw : decodeCommand w = d at h
  cases h with
  | symClosed b ho => rw [step_of_instr hp hw, exec_sym, execSym_of_closed b ho]
  | endClosed ho => rw [step_of_instr hp hw, exec_endPass, execEnd_of_closed ho]
  | symFull b ho hc => rw [step_of_instr hp hw, exec_sym, execSym_of_full b ho hc]
  | endError ho hc => rw [step_of_instr hp hw, exec_endPass, execEnd_of_error ho (compute_of_error hc).1]
  | reserved why => exact step_of_reserved hp hw

theorem fails_of_execSym {b : Byte} (ht : execSym b s = .next t) (he : t.responses = s.responses ++ [.err e]) :
    Fails s (.instr (.sym b)) e t := by
  obtain ⟨ho, h⟩ | ⟨ho, hc, h⟩ | ⟨-, -, h⟩ := execSym_cases b s <;> cases h.symm.trans ht
  · obtain rfl : ErrorCode.sequence = e := by simpa using he
    exact .symClosed b ho
  · obtain rfl : ErrorCode.capacity = e := by simpa using he
    exact .symFull b ho (Params.atCapacity_iff.1 hc)
  · simp at he

theorem fails_of_execEnd (ht : execEnd s = .next t) (he : t.responses = s.responses ++ [.err e]) :
    Fails s (.instr .endPass) e t := by
  obtain ⟨ho, h⟩ | ⟨ho, h⟩ := execEnd_cases s
  · cases h.symm.trans ht
    obtain rfl : ErrorCode.sequence = e := by simpa using he
    exact .endClosed ho
  · have hc : (compute s).1 = .err e := by
      cases h.symm.trans ht
      simpa using he
    cases (execEnd_of_error ho (compute_of_error hc).1).symm.trans ht
    exact .endError ho hc

/-- A step on a command word that gets an error is one of the ways to an error. -/
theorem fails_of_step {w : CommandWord} {rest : List PortEvent} (hp : s.port = .command w :: rest)
    (ht : step s = .next t) (he : t.responses = s.responses ++ [.err e]) :
    Fails (s.setPort rest) (decodeCommand w) e t := by
  obtain ⟨sss, hw⟩ | ⟨b, hw⟩ | hw | ⟨why, hw⟩ := decodeCommand_cases w <;> rw [hw]
  · rw [step_of_instr hp hw, exec_start] at ht
    cases ht
    simp at he
  · rw [step_of_instr hp hw, exec_sym] at ht
    exact fails_of_execSym ht he
  · rw [step_of_instr hp hw, exec_endPass] at ht
    exact fails_of_execEnd ht he
  · cases (step_of_reserved hp hw).symm.trans ht
    obtain rfl : ErrorCode.reservedCommand = e := by simpa using he
    exact .reserved why

/-- A step on a command word answers an error exactly when there is a way to that error. -/
theorem step_error_iff {w : CommandWord} {rest : List PortEvent} (hp : s.port = .command w :: rest)
    (ht : step s = .next t) :
    t.responses = s.responses ++ [.err e] ↔ ∃ u, Fails (s.setPort rest) (decodeCommand w) e u := by
  constructor
  · exact fun he => ⟨t, fails_of_step hp ht he⟩
  · rintro ⟨u, hu⟩
    cases (hu.step_eq hp).symm.trans ht
    exact hu.responses

/-! Which commands have an error, and when. -/

/-- R181: ERR_CAPACITY is raised in two places. -/
theorem fails_capacity_iff :
    (∃ t, Fails s d .capacity t) ↔
      s.passOpen = true ∧ ((∃ b, d = .instr (.sym b) ∧ s.params.maxBits = some s.inputPos) ∨
        (d = .instr .endPass ∧ s.ovf = true ∧ (decodeScheme s.sel).isSome = true)) := by
  constructor
  · rintro ⟨t, h⟩
    cases h with
    | symFull b ho hc => exact ⟨ho, .inl ⟨b, rfl, hc⟩⟩
    | endError ho hc => exact ⟨ho, .inr ⟨rfl, compute_capacity_iff.1 hc⟩⟩
  · rintro ⟨ho, ⟨b, rfl, hc⟩ | ⟨rfl, hc⟩⟩
    · exact ⟨_, .symFull b ho hc⟩
    · exact ⟨_, .endError ho (compute_capacity_iff.2 hc)⟩

/-- R181: a state that meets the invariant and has no bound gives ERR_CAPACITY to no command: OVF is 0 there (R26). -/
theorem not_fails_capacity_of_unbounded (hi : s.Inv) (hm : s.params.maxBits = none) : ¬ ∃ t, Fails s d .capacity t := by
  rw [fails_capacity_iff]
  rintro ⟨-, ⟨-, -, hfull⟩ | ⟨-, hovf, -⟩⟩
  · simp [hm] at hfull
  · simp [Params.atCapacity_iff.1 (hi.ovf_full hovf)] at hm

/-- R184: ERR_SEQUENCE is raised by SYM and END when no pass is open. -/
theorem fails_sequence_iff :
    (∃ t, Fails s d .sequence t) ↔ s.passOpen = false ∧ ((∃ b, d = .instr (.sym b)) ∨ d = .instr .endPass) := by
  constructor
  · rintro ⟨t, h⟩
    cases h with
    | symClosed b ho => exact ⟨ho, .inl ⟨b, rfl⟩⟩
    | endClosed ho => exact ⟨ho, .inr rfl⟩
    | endError ho hc => simpa using (compute_of_error hc).2
  · rintro ⟨ho, ⟨b, rfl⟩ | rfl⟩
    · exact ⟨_, .symClosed b ho⟩
    · exact ⟨_, .endClosed ho⟩

/-! What a command that gets an error leaves changed (R188). -/

/-- R188: ERR_SEQUENCE and ERR_RESERVED_COMMAND change nothing. -/
theorem Fails.eq_raise (h : Fails s d e t) (he : e = .sequence ∨ e = .reservedCommand) : t = s.raise e := by
  cases h with
  | symClosed | endClosed | reserved => rfl
  | symFull => simp at he
  | endError ho hc => obtain rfl | rfl := he <;> simpa using (compute_of_error hc).2

/-- R188: a SYM that gets ERR_CAPACITY sets OVF and discards its byte. -/
theorem Fails.eq_of_sym {b : Byte} (h : Fails s (.instr (.sym b)) .capacity t) : t = (s.setOvf true).raise .capacity := by
  cases h
  rfl

/-- R188: an END that gets an error in a pass closes it. -/
theorem Fails.eq_of_endPass (h : Fails s (.instr .endPass) e t) (he : e ≠ .sequence) : t = s.closePass.raise e := by
  cases h with
  | endClosed => exact absurd rfl he
  | endError => rfl

end

end Sys2Proof.Machine

namespace Sys2Proof

open Machine

/-- Settles O36: the two places of ERR_CAPACITY; with no bound neither is met. -/
theorem capacityRaisedExactly : Obligations.CapacityRaisedExactly := by
  unfold Obligations.CapacityRaisedExactly
  intro s w rest hp
  obtain ⟨-, -, t, ht, -⟩ := step_answers hp
  refine ⟨t, ht, (step_error_iff hp ht).trans fails_capacity_iff, ?sym, fun hi hm he => ?unbounded⟩
  case sym =>
    rintro ⟨d, hw⟩ he
    have h : Fails (s.setPort rest) (decode (.cmd w)) .capacity t := fails_of_step hp ht he
    rw [hw] at h
    rw [h.eq_of_sym]
    exact ⟨rfl, rfl⟩
  case unbounded =>
    have hi' : (s.setPort rest).Inv := { hi with }
    exact not_fails_capacity_of_unbounded hi' hm ((step_error_iff hp ht).1 he)

/-- Settles O38: SYM and END with no pass open, and the iff of ERR_SEQUENCE, in which START has no part. -/
theorem sequenceErrorExactly : Obligations.SequenceErrorExactly := by
  unfold Obligations.SequenceErrorExactly
  refine ⟨fun s d ho => ⟨execSym_of_closed d ho, execEnd_of_closed ho⟩, fun s w rest hp => ?_⟩
  obtain ⟨-, -, t, ht, -⟩ := step_answers hp
  exact ⟨t, ht, (step_error_iff hp ht).trans fails_sequence_iff⟩

/-- Settles O39: what each way to an error leaves changed. -/
theorem errorsArePrecise : Obligations.ErrorsArePrecise := by
  unfold Obligations.ErrorsArePrecise
  intro s w rest e hp
  obtain ⟨-, -, t, ht, -⟩ := step_answers hp
  refine ⟨t, ht, fun he => ?_⟩
  have h : Fails (s.setPort rest) (decode (.cmd w)) e t := fails_of_step hp ht he
  rw [he]
  refine ⟨h.eq_raise, ?sym, fun hw hne => ?endPass⟩
  case sym =>
    rintro ⟨d, hw⟩ rfl
    rw [hw] at h
    exact h.eq_of_sym
  case endPass =>
    rw [hw] at h
    exact h.eq_of_endPass hne

/-- Settles O35: the code of a scheme decodes, so that the check of the symbols is the one that fails. -/
theorem invalidSymbolEveryScheme : Obligations.InvalidSymbolEveryScheme := by
  unfold Obligations.InvalidSymbolEveryScheme
  intro s sc hopen hsel hovf hv
  have hs : decodeScheme s.sel = some sc := by rw [hsel, decodeScheme_schemeCode]
  exact ⟨_, execEnd_of_error hopen (compute_of_invalid hs hovf hv), rfl, rfl⟩

end Sys2Proof
end

-- ==== Proofs of the family 70_reset_and_hazards ====
section
/-! PROOFS. What a pass carries and what it does not (70_reset_and_hazards.md R207, R208): an overflow stays with its pass to the END, and
no state crosses from one pass to the next. -/

namespace Sys2Proof.Machine

/-! The sticky overflow (R208). -/

section
variable {s t : State}

theorem execSeq_cons {i : Instr} (h : exec i s = .next t) (is : List Instr) : execSeq (i :: is) s = execSeq is t := by
  simp [execSeq, h]

/-- A pass is open, IN is full, and a SYM has found it so (R140). -/
structure State.Overflowed (s : State) : Prop where
  passOpen : s.passOpen = true
  full : s.params.maxBits = some s.inputPos
  ovf : s.ovf = true

/-- R140: a SYM to a full IN overflows the pass. -/
theorem exec_sym_overflows (d : Byte) (ho : s.passOpen = true) (hc : s.params.maxBits = some s.inputPos) :
    ∃ t, exec (.sym d) s = .next t ∧ t.Overflowed :=
  ⟨_, execSym_of_full d ho hc, ho, hc, rfl⟩

/-- R186: the END of an overflowed pass fails at the check of the scheme or at the one after it, that of OVF. -/
theorem State.Overflowed.exec_endPass (h : s.Overflowed) :
    ∃ t, exec .endPass s = .next t ∧
      (t.responses.getLast? = some (.err .capacity) ∨ t.responses.getLast? = some (.err .reservedScheme)) := by
  cases hs : decodeScheme s.sel with
  | none =>
    have hend := execEnd_of_error h.passOpen (compute_of_reserved hs)
    exact ⟨_, hend, .inr (by simp)⟩
  | some sc =>
    have hend := execEnd_of_error h.passOpen (compute_of_ovf hs h.ovf)
    exact ⟨_, hend, .inl (by simp)⟩

/-- R208: no SYM takes the overflow back, so the END finds it however many there are. -/
theorem State.Overflowed.execSeq_syms_endPass (h : s.Overflowed) (ds : List Byte) :
    ∃ t, execSeq (ds.map .sym ++ [.endPass]) s = .next t ∧
      (t.responses.getLast? = some (.err .capacity) ∨ t.responses.getLast? = some (.err .reservedScheme)) := by
  induction ds generalizing s with
  | nil =>
    obtain ⟨t, ht, hr⟩ := h.exec_endPass
    exact ⟨t, execSeq_cons ht [], hr⟩
  | cons d ds ih =>
    obtain ⟨u, hu, hover⟩ := exec_sym_overflows d h.passOpen h.full
    obtain ⟨t, ht, hr⟩ := ih hover
    exact ⟨t, (execSeq_cons hu _).trans ht, hr⟩

/-! No step writes the parameters (R6, R45), so a pass finds those that the pass before it found. -/

theorem execSym_params {d : Byte} (h : execSym d s = .next t) : t.params = s.params := by
  obtain ⟨-, hs⟩ | ⟨-, -, hs⟩ | ⟨-, -, hs⟩ := execSym_cases d s
  all_goals
    cases hs.symm.trans h
    rfl

theorem execEnd_params (h : execEnd s = .next t) : t.params = s.params := by
  obtain ⟨-, hs⟩ | ⟨-, hs⟩ := execEnd_cases s
  all_goals
    cases hs.symm.trans h
    rfl

theorem step_params (h : step s = .next t) : t.params = s.params := by
  obtain ⟨-, hs⟩ | ⟨_, -, hs⟩ | ⟨_, _, _, -, -, hs⟩ | ⟨_, _, _, -, -, hs⟩ | ⟨_, _, -, -, hs⟩ | ⟨_, _, _, -, -, hs⟩ :=
    step_cases s
  · cases hs.symm.trans h
    rfl
  · cases hs.symm.trans h
    rfl
  · cases hs.symm.trans h
    rfl
  · rw [execSym_params (hs.symm.trans h), State.setPort_params]
  · rw [execEnd_params (hs.symm.trans h), State.setPort_params]
  · cases hs.symm.trans h
    rfl

theorem run_params {n : Nat} (h : run n s = .next t) : t.params = s.params := by
  induction n generalizing s with
  | zero =>
    cases h
    rfl
  | succ n ih =>
    cases hs : step s with
    | next u =>
      rw [run_succ hs] at h
      rw [ih h, step_params hs]
    | fault r => cases r
    | refused r => simp [run, hs] at h

end

/-! The responses of a pass (R150, R207). -/

section
variable {s : State} {sel : SelCode} {c : List Byte} {rest : List PortEvent}

/-- R150: what a block with parameters `p` answers to a whole pass: to its START, to its SYMs and to its END. -/
def passResponses (p : Params) (sel : SelCode) (c : List Byte) : List Response :=
  .ack :: (symResponses p c.length ++ [passResponse p sel c])

theorem passResponses_length (p : Params) (sel : SelCode) (c : List Byte) :
    (passResponses p sel c).length = c.length + 2 := by
  simp [passResponses, symResponses]

/-- R207: the responses of a pass depend on the parameters of the block and on nothing else of its state. -/
theorem run_pass_responses (hp : s.port = passEvents sel c ++ rest) :
    ∃ t, run (c.length + 2) s = .next t ∧ t.responses = s.responses ++ passResponses s.params sel c ∧ t.port = rest := by
  obtain ⟨t, ht, hr, -, -, -, hport⟩ := run_pass hp
  exact ⟨t, ht, by simp [hr, passResponses], hport⟩

/-- R207: the same pass issued again is answered alike. -/
theorem run_pass_twice (hp : s.port = passEvents sel c ++ (passEvents sel c ++ rest)) :
    ∃ t, run (c.length + 2 + (c.length + 2)) s = .next t ∧
      t.responses = s.responses ++ passResponses s.params sel c ++ passResponses s.params sel c := by
  obtain ⟨u, hu, hur, hport⟩ := run_pass_responses hp
  obtain ⟨t, ht, htr, -⟩ := run_pass_responses hport
  refine ⟨t, (run_add hu _).trans ht, ?_⟩
  rw [htr, run_params hu, hur]

end

/-- R110, R207: the first mark of an AMI pass is HIGH, wherever one bit fits in IN. -/
theorem passResponse_ami_one {p : Params} (hfits : p.exceeds 1 = false) :
    passResponse p 0b010#3 [0x31#8] = .ok (resultOf p .bipolarAmi [0x31#8]) :=
  passResponse_of_valid (by decide) hfits (by decide)

end Sys2Proof.Machine

namespace Sys2Proof

open Machine

/-- Settles O37: the first SYM overflows the pass, and the overflow stays until the END. -/
theorem capacityIsSticky : Obligations.CapacityIsSticky := by
  unfold Obligations.CapacityIsSticky
  intro s d ds ho hc
  obtain ⟨u, hu, hover⟩ := exec_sym_overflows d ho hc
  obtain ⟨t, ht, hr⟩ := hover.execSeq_syms_endPass ds
  exact ⟨t, (execSeq_cons hu _).trans ht, hr⟩

/-- Settles O50: the responses of a pass are a function of the parameters, and these are the same after a pass. -/
theorem repeatedPassRepeats : Obligations.RepeatedPassRepeats := by
  unfold Obligations.RepeatedPassRepeats
  refine ⟨?anyStates, ?twice, ?amiOne, ?restart⟩
  case anyStates =>
    intro s s' sel c rest rest' hparams hp hp'
    obtain ⟨t, ht, hr, -⟩ := run_pass_responses hp
    obtain ⟨t', ht', hr', -⟩ := run_pass_responses hp'
    exact ⟨t, t', passResponses s.params sel c, ht, ht', hr, hparams ▸ hr'⟩
  case twice =>
    intro s sel c rest hp
    obtain ⟨t, ht, hr⟩ := run_pass_twice hp
    exact ⟨t, passResponses s.params sel c, ht, passResponses_length _ _ _, hr⟩
  case amiOne =>
    intro p hfits
    refine ⟨_, passResponse_ami_one (Params.exceeds_eq_false_iff.2 hfits), ?_⟩
    show encLevels .bipolarAmi [true] = [.high]
    decide
  case restart =>
    intro s e
    rw [encodePhase_nil]
    exact ⟨rfl, rfl, rfl, rfl⟩

end Sys2Proof
end

-- ==== Proofs of the family other ====
section
/-! PROOFS. The encoder and the decoder undo each other (30_encoding.md R63 to R69), format by format. -/

namespace Sys2Proof

/-- R67: the word of a transition is the code of its scheme, with the operand bit beside it. -/
@[simp] theorem encode_transitionInstr (s : Scheme) (b : Bit) :
    encode (transitionInstr s b) = .sel (schemeCode s) b := by
  cases s <;> rfl

/-- R69: the word of a symbol read is its symbol. -/
@[simp] theorem encode_symbolInstr (b : Bit) : encode (symbolInstr b) = .symbol (symbolOf b) := by
  cases b <;> rfl

/-- R69, R130: a symbol stands for its read. -/
theorem decode_symbol_symbolOf (b : Bit) : decode (.symbol (symbolOf b)) = .instr (symbolInstr b) := by
  simp [decode]

theorem decode_encode (i : Instr) : decode (encode i) = .instr i := by
  cases i with
  | start sss => exact Machine.decodeCommand_eq_start_iff_word.2 rfl
  | sym d => exact Machine.decodeCommand_eq_sym_iff_word.2 rfl
  | endPass => exact Machine.decodeCommand_eq_endPass_iff_word.2 rfl
  | nrzL b => exact decode_sel_schemeCode .nrzL b
  | nrzI b => exact decode_sel_schemeCode .nrzI b
  | ami b => exact decode_sel_schemeCode .bipolarAmi b
  | pseudoternary b => exact decode_sel_schemeCode .pseudoternary b
  | manchester b => exact decode_sel_schemeCode .manchester b
  | diffManchester b => exact decode_sel_schemeCode .diffManchester b
  | symbol0 => exact decode_symbol_symbolOf false
  | symbol1 => exact decode_symbol_symbolOf true

section
variable {i : Instr}

/-- R63 to R66: a command word that decodes is the word of its instruction. -/
theorem encode_of_decodeCommand {w : CommandWord} (h : decodeCommand w = .instr i) : encode i = .cmd w := by
  obtain ⟨sss, hw⟩ | ⟨d, hw⟩ | hw | ⟨why, hw⟩ := Machine.decodeCommand_cases w
  all_goals cases hw.symm.trans h
  · rw [Machine.decodeCommand_eq_start_iff_word.1 hw]
    rfl
  · rw [Machine.decodeCommand_eq_sym_iff_word.1 hw]
    rfl
  · rw [Machine.decodeCommand_eq_endPass_iff_word.1 hw]
    rfl

/-- R67, R68: a SEL code that decodes is the code of a scheme. -/
theorem encode_of_decode_sel {c : SelCode} {b : Bit} (h : decode (.sel c b) = .instr i) : encode i = .sel c b := by
  cases hc : decodeScheme c with
  | none => simp [decode, hc] at h
  | some s =>
    obtain rfl := eq_schemeCode_of_decodeScheme hc
    cases (decode_sel_schemeCode s b).symm.trans h
    exact encode_transitionInstr s b

/-- R69: a byte that decodes is one of the two symbols. -/
theorem encode_of_decode_symbol {c : Byte} (h : decode (.symbol c) = .instr i) : encode i = .symbol c := by
  cases hc : bitval c with
  | none => simp [decode, hc] at h
  | some b =>
    obtain rfl := bitval_eq_some hc
    cases (decode_symbol_symbolOf b).symm.trans h
    exact encode_symbolInstr b

end

/-- Settles O5: `decode_encode`, by cases on the instruction. -/
theorem decodeOfEncode : Obligations.DecodeOfEncode := by
  unfold Obligations.DecodeOfEncode
  exact fun i _ => decode_encode i

/-- Settles O6: by cases on the format of the word. -/
theorem encodeOfDecode : Obligations.EncodeOfDecode := by
  unfold Obligations.EncodeOfDecode
  intro e i h
  cases e with
  | cmd w => exact encode_of_decodeCommand h
  | sel c b => exact encode_of_decode_sel h
  | symbol c => exact encode_of_decode_symbol h

/-- Settles O1: the decoder evaluated on each of the written words. -/
theorem writtenWordsDecode : Obligations.WrittenWordsDecode := by
  unfold Obligations.WrittenWordsDecode
  decide

end Sys2Proof
end

section
/-! PROOFS. The invariant of the block (10_state.md R33, 20_memory.md R42, 70_reset_and_hazards.md R201): power-on meets it and every
step keeps it. -/

namespace Sys2Proof

/-- The constants of `Config` are within the constraints of R6 and R165, whatever their free values. -/
theorem Config.params_wf : Config.params.wf = true := by
  exact Params.wf_iff.2 ⟨rfl, iteInduction (motive := (· ≤ 0)) id fun _ => le_rfl,
    iteInduction (motive := (1 ≤ ·)) id fun _ => le_rfl, iteInduction (motive := (0 < ·)) id fun _ => one_pos,
    iteInduction (motive := (Config.labelY0 + Config.labelH ≤ ·)) id fun _ => le_rfl⟩

namespace Machine

theorem State.Inv.powerOn {p : Params} (h : p.wf = true) : (State.powerOn p).Inv where
  params_wf := h
  in_fits := p.exceeds_zero
  closed_empty _ := ⟨rfl, rfl⟩
  ovf_full hovf := nomatch hovf
  lv_empty := rfl
  bits_empty := rfl

section
variable {s t : State}

/-! One rule per update: the invariant speaks neither of SEL nor of the port nor of the responses. -/

theorem State.Inv.setPort (h : s.Inv) (rest : List PortEvent) : (s.setPort rest).Inv := { h with }

theorem State.Inv.setSel (h : s.Inv) (v : SelCode) : (s.setSel v).Inv := { h with }

theorem State.Inv.nextFresh (h : s.Inv) : s.nextFresh.Inv := { h with }

theorem State.Inv.respond (h : s.Inv) (r : Response) : (s.respond r).Inv := { h with }

theorem State.Inv.raise (h : s.Inv) (x : ErrorCode) : (s.raise x).Inv := h.respond (.err x)

/-- R42: the encoder unit may be any in which no phase is in progress. -/
theorem State.Inv.setEnc (h : s.Inv) {e : Encoder} (hlv : e.lv = []) (hbits : e.bits = []) : (s.setEnc e).Inv :=
  { h with lv_empty := hlv, bits_empty := hbits }

/-- R33: with IN empty and OVF 0 the pass may be open or closed. -/
theorem State.Inv.empty (h : s.Inv) (v : Bit) : (((s.setPassOpen v).clearIn).setOvf false).Inv :=
  { h with
    in_fits := s.params.exceeds_zero
    closed_empty := fun _ => ⟨rfl, rfl⟩
    ovf_full := fun hovf => nomatch hovf }

theorem State.Inv.closePass (h : s.Inv) : s.closePass.Inv := h.empty false

/-- R26: OVF is set when IN is full. -/
theorem State.Inv.setOvf_of_full (h : s.Inv) (ho : s.passOpen = true) (hc : s.params.atCapacity s.inputPos = true) :
    (s.setOvf true).Inv :=
  { h with
    closed_empty := fun hclosed => nomatch ho.symm.trans hclosed
    ovf_full := fun _ => hc }

/-- R26, R41: a pass that is not full has OVF 0, and one more symbol fits. -/
theorem State.Inv.memWrite_of_room (h : s.Inv) (d : Byte) (ho : s.passOpen = true)
    (hc : s.params.atCapacity s.inputPos = false) : (s.memWrite s.inputPos d).Inv :=
  { h with
    in_fits := s.memWrite_fits d h.in_fits hc
    closed_empty := fun hclosed => nomatch ho.symm.trans hclosed
    ovf_full := fun hovf => nomatch hc.symm.trans (h.ovf_full hovf) }

/-! The commands and the RESET event. -/

theorem execStart_keeps_inv {sss : SelCode} (hi : s.Inv) (h : execStart sss s = .next t) : t.Inv := by
  cases h
  exact ((hi.setSel sss).empty true).respond .ack

theorem execSym_keeps_inv {d : Byte} (hi : s.Inv) (h : execSym d s = .next t) : t.Inv := by
  obtain ⟨-, hs⟩ | ⟨ho, hc, hs⟩ | ⟨ho, hc, hs⟩ := execSym_cases d s <;> cases hs.symm.trans h
  · exact hi.raise .sequence
  · exact (hi.setOvf_of_full ho hc).raise .capacity
  · exact (hi.memWrite_of_room d ho hc).respond .ack

theorem execEnd_keeps_inv (hi : s.Inv) (h : execEnd s = .next t) : t.Inv := by
  obtain ⟨-, hs⟩ | ⟨-, hs⟩ := execEnd_cases s <;> cases hs.symm.trans h
  · exact hi.raise .sequence
  · obtain ⟨hlv, hbits⟩ := compute_work_empty hi.lv_empty hi.bits_empty
    exact ((hi.setEnc hlv hbits).closePass).respond _

/-- R142: RESET closes the pass; the registers that take free values are nothing to the invariant. -/
theorem resetEvent_keeps_inv (hi : s.Inv) (h : resetEvent s = .next t) : t.Inv := by
  cases h
  exact ((hi.closePass.setSel _).setEnc (e := s.enc.unspecified s.fresh) hi.lv_empty hi.bits_empty).nextFresh

theorem step_keeps_inv (hi : s.Inv) (h : step s = .next t) : t.Inv := by
  obtain ⟨-, hs⟩ | ⟨rest, -, hs⟩ | ⟨_, _, rest, -, -, hs⟩ | ⟨_, _, rest, -, -, hs⟩ | ⟨_, rest, -, -, hs⟩ |
    ⟨_, _, rest, -, -, hs⟩ := step_cases s
  · cases hs.symm.trans h
    exact hi
  · exact resetEvent_keeps_inv (hi.setPort rest) (hs.symm.trans h)
  · exact execStart_keeps_inv (hi.setPort rest) (hs.symm.trans h)
  · exact execSym_keeps_inv (hi.setPort rest) (hs.symm.trans h)
  · exact execEnd_keeps_inv (hi.setPort rest) (hs.symm.trans h)
  · cases hs.symm.trans h
    exact (hi.setPort rest).raise .reservedCommand

end

end Machine

open Machine

/-- Settles O46: one rule for each thing a step can do. -/
theorem everyStepKeepsInvariant : Obligations.EveryStepKeepsInvariant := by
  unfold Obligations.EveryStepKeepsInvariant
  exact fun s t hi h => step_keeps_inv hi h

/-- Settles O47: power-on has IN empty and OVF 0, and the parameters of the reset are admissible. -/
theorem powerOnMeetsInvariant : Obligations.PowerOnMeetsInvariant := by
  unfold Obligations.PowerOnMeetsInvariant
  exact ⟨fun p => State.Inv.powerOn, State.Inv.powerOn Config.params_wf⟩

end Sys2Proof
end

section
/-! PROOFS. Every step and every instruction has a next state (43_mux_and_commands.md R143), who writes what (10_state.md R33), and how
several instances step (20_memory.md R51). -/

namespace Sys2Proof.Machine

/-- R143, R188: no instruction faults or is refused. -/
theorem exec_answers_next (i : Instr) (s : State) : ∃ t, exec i s = .next t := by
  cases i with
  | sym d =>
    obtain ⟨-, -, t, ht, -⟩ := execSym_answers d s
    exact ⟨t, ht⟩
  | endPass =>
    obtain ⟨-, -, t, ht, -⟩ := execEnd_answers s
    exact ⟨t, ht⟩
  | start | nrzL | nrzI | ami | pseudoternary | manchester | diffManchester | symbol0 | symbol1 => exact ⟨_, rfl⟩

/-- R48, R72: a step takes the oldest event from the port and adds at most one response. -/
theorem step_takes_event (s : State) :
    ∃ t, step s = .next t ∧ (∃ rs, t.responses = s.responses ++ rs ∧ rs.length ≤ 1) ∧ t.port = s.port.tail := by
  cases hp : s.port with
  | nil => exact ⟨s, step_of_empty hp, ⟨[], by simp⟩, hp⟩
  | cons event rest =>
    cases event with
    | reset =>
      obtain ⟨t, ht, -, -, -, hr, -, hport⟩ := resetEvent_closes (s.setPort rest)
      exact ⟨t, (step_of_reset hp).trans ht, ⟨[], by simp [hr]⟩, hport⟩
    | command w =>
      obtain ⟨r, -, t, ht, hr, hport⟩ := step_answers hp
      exact ⟨t, ht, ⟨[r], hr, le_rfl⟩, hport⟩

/-! The column "written by" of the state table (R33). -/

/-- R33: from `s` to `t`, only what names the command `d` is written. -/
structure WrittenBy (d : Decoded) (s t : State) : Prop where
  sel : (∀ sss, d ≠ .instr (.start sss)) → t.sel = s.sel
  enc : d ≠ .instr .endPass → t.enc = s.enc
  sym : (∃ b, d = .instr (.sym b)) → t.passOpen = s.passOpen
  reserved : (∃ why, d = .reserved why) → t.passOpen = s.passOpen ∧ t.inBuf = s.inBuf ∧ t.ovf = s.ovf
  endPass : d = .instr .endPass → s.passOpen = true → t.passOpen = false ∧ t.inBuf = [] ∧ t.ovf = false
  start : ∀ sss, d = .instr (.start sss) → t.sel = sss

theorem execStart_writes (sss : SelCode) (s : State) :
    ∃ t, execStart sss s = .next t ∧ WrittenBy (.instr (.start sss)) s t :=
  ⟨_, rfl, by constructor <;> simp⟩

theorem execSym_writes (d : Byte) (s : State) :
    ∃ t, execSym d s = .next t ∧ WrittenBy (.instr (.sym d)) s t := by
  obtain ⟨-, h⟩ | ⟨-, -, h⟩ | ⟨-, -, h⟩ := execSym_cases d s
  all_goals exact ⟨_, h, by constructor <;> simp⟩

theorem execEnd_writes (s : State) : ∃ t, execEnd s = .next t ∧ WrittenBy (.instr .endPass) s t := by
  obtain ⟨hclosed, h⟩ | ⟨-, h⟩ := execEnd_cases s
  · exact ⟨_, h, by constructor <;> simp [hclosed]⟩
  · exact ⟨_, h, by constructor <;> simp⟩

theorem raise_writes (why : Reject) (x : ErrorCode) (s : State) : WrittenBy (.reserved why) s (s.raise x) := by
  constructor <;> simp

theorem step_writes {s : State} {w : CommandWord} {rest : List PortEvent} (hp : s.port = .command w :: rest) :
    ∃ t, step s = .next t ∧ WrittenBy (decodeCommand w) (s.setPort rest) t := by
  obtain ⟨sss, hw⟩ | ⟨d, hw⟩ | hw | ⟨why, hw⟩ := decodeCommand_cases w <;> rw [hw]
  · rw [step_of_instr hp hw, exec_start]
    exact execStart_writes sss _
  · rw [step_of_instr hp hw, exec_sym]
    exact execSym_writes d _
  · rw [step_of_instr hp hw, exec_endPass]
    exact execEnd_writes _
  · exact ⟨_, step_of_reserved hp hw, raise_writes why _ _⟩

/-! Several instances (R51). -/

theorem stepInstance_of_none {k : Nat} {d : List State} (h : d[k]? = none) : stepInstance k d = .next d := by
  simp [stepInstance, h]

theorem stepInstance_of_some {k : Nat} {d : List State} {s t : State} (h : d[k]? = some s) (hs : step s = .next t) :
    stepInstance k d = .next (d.set k t) := by
  simp [stepInstance, h, hs]

end Sys2Proof.Machine

namespace Sys2Proof

open Machine

/-- Settles O43: a step answers by the event it takes, an instruction by its constructor. -/
theorem stepAlwaysAnswers : Obligations.StepAlwaysAnswers := by
  unfold Obligations.StepAlwaysAnswers
  refine ⟨fun s => ?_, exec_answers_next, fun s => step_of_empty⟩
  obtain ⟨t, ht, -⟩ := step_takes_event s
  exact ⟨t, ht⟩

/-- Settles O45: what every step does, what RESET leaves, and the column of the state table for each command. -/
theorem whoWritesWhat : Obligations.WhoWritesWhat := by
  unfold Obligations.WhoWritesWhat
  refine ⟨fun s t h => ⟨step_params h, ?every⟩, fun s rest hp => ⟨_, step_of_reset hp, rfl, rfl⟩, fun s w rest hp => ?command⟩
  case every =>
    obtain ⟨u, hu, htakes⟩ := step_takes_event s
    cases hu.symm.trans h
    exact htakes
  case command =>
    obtain ⟨t, ht, hw⟩ := step_writes hp
    exact ⟨t, ht, hw.sel, hw.enc, hw.sym, hw.reserved, hw.endPass, hw.start⟩

/-- Settles O52: the list changes at the number `k` alone, if it names a block, and there by the block's own step. -/
theorem instancesShareNothing : Obligations.InstancesShareNothing := by
  unfold Obligations.InstancesShareNothing
  intro k d
  cases hk : d[k]? with
  | none => exact ⟨d, stepInstance_of_none hk, fun _ _ => rfl, fun s hs => nomatch hs⟩
  | some s =>
    obtain ⟨t, ht, -⟩ := step_takes_event s
    refine ⟨d.set k t, stepInstance_of_some hk ht, fun j hj => List.getElem?_set_ne hj.symm, ?own⟩
    case own =>
      rintro s' ⟨⟩
      obtain ⟨hlt, -⟩ := List.getElem?_eq_some_iff.1 hk
      exact ⟨t, ht, List.getElem?_set_self hlt⟩

/-- Settles O51: two blocks that are the same to the host stay so through every run, their responses included. -/
theorem unspecifiedIsUnobservable : Obligations.UnspecifiedIsUnobservable := by
  unfold Obligations.UnspecifiedIsUnobservable
  intro n s t h
  obtain ⟨s', t', hs, ht, h'⟩ := run_same n h
  exact ⟨s', t', hs, ht, h'.responses⟩

/-- Settles O41: power-on has no pass open, so that SEL and the encoder unit are nothing to the host in any run after it; RESET closes
the pass. -/
theorem powerOnState : Obligations.PowerOnState := by
  unfold Obligations.PowerOnState
  refine ⟨fun p => ⟨rfl, rfl, rfl, rfl, step_of_empty rfl, fun sel e es n => ?unobservable⟩, fun s rest hp => ?reset⟩
  case unobservable =>
    have hclosed : ((State.powerOn p).issue es).passOpen = false := rfl
    obtain ⟨u, u', hu, hu', h⟩ := run_same n (State.SameToHost.of_closed hclosed sel e)
    exact ⟨u, u', hu, hu', h.responses⟩
  case reset =>
    obtain ⟨t, ht, hclosed, hin, hovf, -⟩ := resetEvent_closes (s.setPort rest)
    exact ⟨t, (step_of_reset hp).trans ht, hclosed, hin, State.inputPos_of_inBuf_nil hin, hovf⟩

end Sys2Proof
end

section
/-! PROOFS. The operations that END performs inside itself, run in order by `exec` (43_mux_and_commands.md R130, R133, R137). -/

namespace Sys2Proof.Machine

/-- R130: the dispatcher runs a symbol read, and its bit joins B. -/
theorem exec_symbolInstr (b : Bit) (s : State) : exec (symbolInstr b) s = .next (s.setEnc (s.enc.loadBit b)) := by
  cases b <;> rfl

theorem execSeq_append {is : List Instr} {s t : State} (h : execSeq is s = .next t) (js : List Instr) :
    execSeq (is ++ js) s = execSeq js t := by
  induction is generalizing s with
  | nil =>
    cases h
    rfl
  | cons i is ih =>
    obtain ⟨u, hu⟩ := exec_answers_next i s
    rw [execSeq_cons hu] at h
    rw [List.cons_append, execSeq_cons hu, ih h]

/-- R137: the symbol reads of a bit string append it to B. -/
theorem execSeq_symbols (bits : List Bit) (s : State) :
    execSeq (bits.map symbolInstr) s = .next (s.setEnc { s.enc with bits := s.enc.bits ++ bits }) := by
  induction bits generalizing s with
  | nil => simp [execSeq, State.setEnc]
  | cons b bs ih =>
    rw [List.map_cons, execSeq_cons (exec_symbolInstr b s), ih]
    simp [State.setEnc, Encoder.loadBit]

/-- R133: the transitions of a bit string, first bit first. -/
theorem execSeq_transitions (sc : Scheme) (bits : List Bit) (s : State) :
    execSeq (bits.map (transitionInstr sc)) s =
      .next (s.setEnc (bits.foldl (fun e b => transition sc b e) s.enc)) := by
  induction bits generalizing s with
  | nil => rfl
  | cons b bs ih =>
    rw [List.map_cons, execSeq_cons (exec_transitionInstr sc b s), ih]
    rfl

/-- R133, R137: the symbol reads of `bits` and then its transitions, from an initialised unit, are an encode phase with `bits` as B. -/
theorem execSeq_data_path (sc : Scheme) (bits : List Bit) (s : State) :
    execSeq (bits.map symbolInstr ++ bits.map (transitionInstr sc)) (s.setEnc { s.enc.init with bits := [] }) =
      .next (s.setEnc (encodePhase sc bits { s.enc with bits := bits })) := by
  rw [execSeq_append (execSeq_symbols bits _), execSeq_transitions]
  rfl

@[simp] theorem Encoder.discard_reg (e : Encoder) (r : EncReg) : e.discard.reg r = e.reg r := by
  cases r <;> rfl

end Sys2Proof.Machine

namespace Sys2Proof

open Machine

/-- Settles O34: both the operations of END and END itself are an encode phase on the bits of IN. -/
theorem endRunsDataPath : Obligations.EndRunsDataPath := by
  unfold Obligations.EndRunsDataPath
  intro s sc hopen hs ho hall
  refine ⟨_, _, (resultOf s.params sc s.inBuf).plot, execSeq_data_path sc (bitsOf s.inBuf) s,
    execEnd_of_valid hopen hs ho (valid_iff.2 hall), ?bits, ?levels, fun r => ?registers⟩
  case bits => rw [State.setEnc_enc, encodePhase_bits]
  case levels =>
    rw [State.setEnc_enc, encodePhase_lv]
    rfl
  case registers =>
    show (encodePhase sc (bitsOf s.inBuf) s.enc).discard.reg r = (encodePhase sc (bitsOf s.inBuf) _).reg r
    rw [Encoder.discard_reg]
    exact (encodePhase_reg ..).trans (encodePhase_reg ..).symm

/-- Settles O18: a symbol read joins its bit to B, for each of the two symbols. -/
theorem symbolReads : Obligations.SymbolReads := by
  unfold Obligations.SymbolReads
  exact fun s => ⟨exec_symbolInstr false s, exec_symbolInstr true s⟩

end Sys2Proof
end

section
/-! PROOFS. The text of commands (30_encoding.md R75): how a line is cut into tokens, what each operand is read as, and the bounds
of what is read. -/

namespace Sys2Proof.Machine

/-! Lines and tokens. -/

/-- A comment changes nothing about the tokens before it. -/
theorem tokens_comment (cur line comment : List Char) : tokens cur (line ++ ';' :: comment) = tokens cur line := by
  induction line generalizing cur with
  | nil => simp [tokens]
  | cons c cs ih => simp only [List.cons_append, tokens, ih]

theorem parseLine_comment (line comment : List Char) : parseLine (line ++ ';' :: comment) = parseLine line := by
  rw [parseLine, tokens_comment, parseLine]

/-- A mnemonic and its operand, with a blank between them. -/
theorem tokens_mnemonic_operand {word x : List Char} (hword : ∀ c ∈ word, c ∉ separators) (hne : word ≠ [])
    (hx : ∀ c ∈ x, c ∉ separators) (hxne : x ≠ []) : tokens [] (word ++ ' ' :: x) = [word, x] := by
  rw [tokens_word_blank hword hne, tokens_word hx hxne]

section
variable {x : List Char} (hx : ∀ c ∈ x, c ∉ separators) (hne : x ≠ [])
include hx hne

theorem parseLine_start : parseLine ("START".toList ++ ' ' :: x) = (parseStart x).map some := by
  rw [parseLine, tokens_mnemonic_operand (by simp [separators]) (by simp) hx hne]
  exact if_pos rfl

theorem parseLine_sym : parseLine ("SYM".toList ++ ' ' :: x) = (parseSym x).map some := by
  rw [parseLine, tokens_mnemonic_operand (by simp [separators]) (by simp) hx hne]
  exact (if_neg (by decide)).trans (if_pos rfl)

theorem parseLine_word : parseLine (".word".toList ++ ' ' :: x) = ((hexLiteral 4 x).map .word).map some := by
  rw [parseLine, tokens_mnemonic_operand (by simp [separators]) (by simp) hx hne]
  exact (if_neg (by decide)).trans ((if_neg (by decide)).trans (if_pos rfl))

end

/-! The operand of START. -/

/-- R75: the case of a scheme name makes no difference. -/
theorem schemeOfName_congr {name name' : List Char} (h : name.map Char.toUpper = name'.map Char.toUpper) :
    schemeOfName name = schemeOfName name' := by
  rw [schemeOfName, h, schemeOfName]

/-- R75: the eight scheme names. -/
def namedSchemes : List (String × Scheme) :=
  [("NRZ-L", .nrzL), ("NRZ-I", .nrzI), ("AMI", .bipolarAmi), ("BIPOLAR-AMI", .bipolarAmi),
    ("PSEUDOTERNARY", .pseudoternary), ("MANCHESTER", .manchester), ("DIFF-MANCHESTER", .diffManchester),
    ("DIFFERENTIAL-MANCHESTER", .diffManchester)]

theorem schemeOfName_of_mem : ∀ e ∈ namedSchemes,
    e.1.toList.map Char.toUpper = e.1.toList ∧ schemeOfName e.1.toList = some e.2 := by decide

theorem schemeOfName_of_toUpper {e : String × Scheme} (he : e ∈ namedSchemes) {name : List Char}
    (h : name.map Char.toUpper = e.1.toList) : schemeOfName name = some e.2 := by
  obtain ⟨hupper, hscheme⟩ := schemeOfName_of_mem e he
  rw [schemeOfName_congr (h.trans hupper.symm), hscheme]

/-- Every scheme name is longer than a number sign and a digit. -/
theorem three_le_length_of_schemeOfName {name : List Char} {sc : Scheme} (h : schemeOfName name = some sc) :
    3 ≤ name.length := by
  have hlength : ∀ n ∈ schemeNames, 3 ≤ n.length := by decide
  simpa using hlength _ (toUpper_mem_schemeNames h)

theorem parseStart_schemeName {name : List Char} {sc : Scheme} (h : schemeOfName name = some sc) :
    parseStart name = some (.startScheme sc) := by
  have hlength := three_le_length_of_schemeOfName h
  unfold parseStart
  split
  · simp at hlength
  · rw [h, Option.map_some]

theorem parseLine_start_schemeName {name : List Char} {sc : Scheme} (h : schemeOfName name = some sc) :
    parseLine ("START".toList ++ ' ' :: name) = some (some (.startScheme sc)) := by
  have hne : name ≠ [] := List.ne_nil_of_length_pos (by have := three_le_length_of_schemeOfName h; omega)
  rw [parseLine_start (schemeName_no_separator h) hne, parseStart_schemeName h, Option.map_some]

/-! Hexadecimal digits (log 16: of either case). -/

theorem hexDigit_lt {c : Char} {n : Nat} (h : hexDigit c = some n) : n < 16 := by
  unfold hexDigit at h
  split_ifs at h with hdigit hlower hupper
  · have hle : c.toNat ≤ 57 := hdigit.2
    cases h
    omega
  · have hle : c.toNat ≤ 102 := hlower.2
    cases h
    omega
  · have hle : c.toNat ≤ 70 := hupper.2
    cases h
    omega

theorem hexDigit_not_separator {c : Char} {n : Nat} (h : hexDigit c = some n) : c ∉ separators := by
  have hnone : ∀ c ∈ separators, hexDigit c = none := by simp [separators, hexDigit]
  intro hc
  simp [hnone c hc] at h

/-- `k` more digits multiply the bound by `16 ^ k`. -/
theorem hexNumber_lt {ds : List Char} {acc n : Nat} (h : hexNumber acc ds = some n) : n < (acc + 1) * 16 ^ ds.length := by
  induction ds generalizing acc with
  | nil =>
    cases h
    simp
  | cons c cs ih =>
    rw [hexNumber] at h
    split at h
    next d hd =>
      have hd16 := hexDigit_lt hd
      calc n < (acc * 16 + d + 1) * 16 ^ cs.length := ih h
        _ ≤ ((acc + 1) * 16) * 16 ^ cs.length := Nat.mul_le_mul_right _ (by omega)
        _ = (acc + 1) * 16 ^ (c :: cs).length := by rw [List.length_cons, Nat.pow_succ', Nat.mul_assoc]
    next => cases h

theorem hexLiteral_lt {k n : Nat} {t : List Char} (h : hexLiteral k t = some n) : n < 16 ^ k := by
  unfold hexLiteral at h
  split at h
  · split at h
    next hlength => simpa [hlength] using hexNumber_lt h
    next => cases h
  · cases h

/-- What follows `0x` is no separator when it is a digit. -/
theorem hexLiteral_no_separator {ds : List Char} (h : ∀ c ∈ ds, c ∉ separators) :
    ∀ c ∈ '0' :: 'x' :: ds, c ∉ separators :=
  List.forall_mem_cons.2 ⟨by decide, List.forall_mem_cons.2 ⟨by decide, h⟩⟩

/-- R75: `SYM 0xhh`. -/
theorem parseLine_symByte {c d : Char} {m n : Nat} (hc : hexDigit c = some m) (hd : hexDigit d = some n) :
    parseLine ("SYM".toList ++ ' ' :: ['0', 'x', c, d]) = some (some (.symByte (16 * m + n))) := by
  have hsep : ∀ x ∈ [c, d], x ∉ separators := by
    simpa using ⟨hexDigit_not_separator hc, hexDigit_not_separator hd⟩
  have hvalue : hexLiteral 2 ['0', 'x', c, d] = some (16 * m + n) := by
    simp [hexLiteral, hexNumber, hc, hd, Nat.mul_comm]
  rw [parseLine_sym (hexLiteral_no_separator hsep) (List.cons_ne_nil _ _)]
  simp [parseSym, hvalue]

/-- R75: `.word 0xhhhh`. -/
theorem parseLine_wordLiteral {a b c d : Char} {k l m n : Nat} (ha : hexDigit a = some k) (hb : hexDigit b = some l)
    (hc : hexDigit c = some m) (hd : hexDigit d = some n) :
    parseLine (".word".toList ++ ' ' :: ['0', 'x', a, b, c, d]) =
      some (some (.word (4096 * k + 256 * l + 16 * m + n))) := by
  have hsep : ∀ x ∈ [a, b, c, d], x ∉ separators := by
    simpa using ⟨hexDigit_not_separator ha, hexDigit_not_separator hb, hexDigit_not_separator hc,
      hexDigit_not_separator hd⟩
  have hvalue : hexLiteral 4 ['0', 'x', a, b, c, d] = some (4096 * k + 256 * l + 16 * m + n) := by
    simp [hexLiteral, hexNumber, ha, hb, hc, hd]
    omega
  rw [parseLine_word (hexLiteral_no_separator hsep) (List.cons_ne_nil _ _), hvalue, Option.map_some, Option.map_some]

/-! What the operands are read as is well-formed. -/

section
variable {a : AsmLine} {t : List Char}

theorem parseStart_wf (h : parseStart t = some a) : a.wf = true := by
  unfold parseStart at h
  split at h
  · split at h
    next hc =>
      have hle : Char.toNat _ ≤ 55 := hc.2
      cases h
      exact decide_eq_true (by omega)
    next => cases h
  · obtain ⟨sc, -, rfl⟩ := Option.map_eq_some_iff.1 h
    rfl

theorem parseSym_wf (h : parseSym t = some a) : a.wf = true := by
  unfold parseSym at h
  split at h
  · obtain ⟨b, -, rfl⟩ := Option.map_eq_some_iff.1 h
    rfl
  · obtain ⟨n, hn, rfl⟩ := Option.map_eq_some_iff.1 h
    exact decide_eq_true (hexLiteral_lt hn)

theorem parseWord_wf (h : (hexLiteral 4 t).map .word = some a) : a.wf = true := by
  obtain ⟨n, hn, rfl⟩ := Option.map_eq_some_iff.1 h
  exact decide_eq_true (hexLiteral_lt hn)

theorem parsePass_wf {name : List Char} (h : parsePass name t = some a) : a.wf = true := by
  unfold parsePass at h
  split at h
  · split at h
    · cases h
      rfl
    · cases h
  · cases h

/-- A line that is accepted has an operand that is accepted, or is END. -/
theorem parseLine_cases {line : List Char} (h : parseLine line = some (some a)) :
    a = .endPass ∨ ∃ x, parseStart x = some a ∨ parseSym x = some a ∨ (hexLiteral 4 x).map .word = some a ∨
      ∃ name, parsePass name x = some a := by
  unfold parseLine at h
  split at h
  · cases h
  · split at h
    · cases h
      exact .inl rfl
    · cases h
  · rename_i x _
    refine .inr ⟨x, ?_⟩
    split at h
    · exact .inl (by simpa using h)
    · split at h
      · exact .inr (.inl (by simpa using h))
      · split at h
        · exact .inr (.inr (.inl (by simpa using h)))
        · cases h
  · rename_i name x _
    split at h
    · exact .inr ⟨x, .inr (.inr (.inr ⟨name, by simpa using h⟩))⟩
    · cases h
  · cases h

theorem parseLine_wf {line : List Char} (h : parseLine line = some (some a)) : a.wf = true := by
  obtain rfl | ⟨x, h | h | h | ⟨name, h⟩⟩ := parseLine_cases h
  · rfl
  · exact parseStart_wf h
  · exact parseSym_wf h
  · exact parseWord_wf h
  · exact parsePass_wf h

end

end Sys2Proof.Machine

namespace Sys2Proof

open Machine

/-- Settles O59: each operand that is accepted is within its bounds. -/
theorem parsedLinesWellFormed : Obligations.ParsedLinesWellFormed := by
  unfold Obligations.ParsedLinesWellFormed
  exact fun line a h => parseLine_wf h

/-- Settles O58: the words of each form by definition, the fixed lines and digits by evaluation, and a lemma for each form with an
operand. -/
theorem textSyntax : Obligations.TextSyntax := by
  unfold Obligations.TextSyntax
  refine ⟨rfl, rfl, rfl, rfl, rfl, rfl, fun n _ => ?startCodeWord, rfl, rfl, fun n _ => rfl, rfl, fun n _ => rfl,
    fun e he name h => parseLine_start_schemeName (schemeOfName_of_toUpper he h), by decide, by decide, by decide,
    fun c d m n hc hd => parseLine_symByte hc hd, by decide,
    fun a b c d k l m n ha hb hc hd => parseLine_wordLiteral ha hb hc hd, by decide, by decide,
    fun line comment => ⟨?comment, fun _ => parseLine_comment line comment⟩⟩
  case startCodeWord => rw [assemble, Nat.shiftLeft_eq]
  case comment => rw [parseLine_comment, parseLine_comment]

end Sys2Proof
end
